-- ==== Sys2Proof/Word.lean ====
section
/-! DEFINITION. The word types of the block (00_scope.md R8, R11). Every quantity is unsigned. -/

namespace Sys2Proof

/-- One byte: ring data, program bytes, caller-buffer bytes. -/
abbrev Byte := BitVec 8

/-- A RISC word, a PHYS address, a register of the bus, a length (`PHYS_WIDTH`, `LEN_WIDTH`). -/
abbrev Word := BitVec 32

/-- A position in the caller's buffer or in the logical stream (`DST_WIDTH`, `POS_WIDTH`). -/
abbrev Long := BitVec 64

/-- The session-slot field of commands and responses (30_encoding.md R100, R106). -/
abbrev Slot := BitVec 16

/-- A command word of the CMD port (30_encoding.md R100). -/
abbrev CmdWord := BitVec 128

/-- A response word of the RSP port (30_encoding.md R106). -/
abbrev RspWord := BitVec 64

/-- A 32-bit PHYS address with one carry bit above it, because an advance past `2^32` does not wrap
(10_state.md R21). -/
abbrev PhysPtr := BitVec 33

end Sys2Proof
end

