-- ==== Sys2Proof/Syntax.lean ====
section
/-! DEFINITION. The instructions: one constructor per row of spec/opcode_table.json, three RISC
instructions of the producer and four commands (00_scope.md R2; 30_encoding.md R110). An operand is
kept exactly where some rule reads it; fields the spec calls ignored have no operand. -/

namespace Sys2Proof

/-- The instruction set. `open` and `close` are spelled `openSession` and `closeSession`. -/
inductive Instr where
  /-- `SYNC` (40_risc_program.md R123). -/
  | sync
  /-- `WRITE` (R124): interrupt flag, counter control, byte count, target address. -/
  | write (irq : Bool) (cc : BitVec 2) (bc : BitVec 12) (addr : Word)
  /-- `JUMP` (R127): address of the next instruction. -/
  | jump (target : Word)
  /-- `OPEN` (43_session_commands.md R181). -/
  | openSession (sid : Slot)
  /-- `READ` (R184 to R197): non-blocking flag, slot, requested length, caller address. -/
  | read (nb : Bool) (sid : Slot) (len : Word) (dst : Long)
  /-- `CLOSE` (R183). -/
  | closeSession (sid : Slot)
  /-- `GENERATE` (41_generator.md R141): the slot field is only copied into the response. -/
  | generate (sid : Slot)
  deriving DecidableEq, Repr

end Sys2Proof
end

