-- ==== Sys2Proof/WellFormed.lean ====
section
/-! DEFINITION. Which instructions have an encoding (30_encoding.md R98): every operand value of a
command has one; a `WRITE` may not carry counter control `0b10`, and a `JUMP` target is a multiple
of 4. -/

namespace Sys2Proof

/-- The instruction has a legal encoding (30_encoding.md R98). -/
def Instr.wf : Instr → Bool
  | .sync => true
  | .write _ cc _ _ => decide (cc ≠ 0b10#2)
  | .jump target => decide (target.toNat % 4 = 0)
  | .openSession _ => true
  | .read _ _ _ _ => true
  | .closeSession _ => true
  | .generate _ => true

end Sys2Proof
end

