-- ==== Sys2Proof/Decode.lean ====
section
/-! DEFINITION. The decoder, total on any bytes and on any command word, rejecting by name; then the
encoder, written from the same tables (30_encoding.md R91 to R101). -/

namespace Sys2Proof

/-- Why the decoder gives no instruction. -/
inductive Reject where
  /-- Word 0 has an `OPCODE` other than `0x1`, `0x7`, `0x8` (R98). -/
  | riscOpcode
  /-- A `WRITE` with `CC == 0b10` (R98). -/
  | riscCounterControl
  /-- A `JUMP` whose word 1 is not a multiple of 4 (R98). -/
  | riscJumpTarget
  /-- Fewer bytes than the instruction has (40_risc_program.md R121). -/
  | riscTruncated
  /-- `OPC` not in `0x01 .. 0x04` (R105, reason 1). -/
  | cmdOpcode
  /-- `RSV != 0` (R105, reason 2). -/
  | cmdReserved
  deriving DecidableEq, Repr

/-! ## RISC words -/

/-- The little-endian word of four bytes, the first at the lowest address (20_memory.md R68). -/
def wordOfBytes (b0 b1 b2 b3 : Byte) : Word := b3 ++ b2 ++ b1 ++ b0

/-- The bytes of a word as memory holds them, lowest address first (20_memory.md R68). -/
def bytesOfWord (w : Word) : List Byte :=
  [w.extractLsb' 0 8, w.extractLsb' 8 8, w.extractLsb' 16 8, w.extractLsb' 24 8]

/-- `OPCODE`, bits [31:28] of word 0 (R91). -/
def opcodeField (w0 : Word) : BitVec 4 := w0.extractLsb' 28 4

/-- `IRQ`, bit [24] of word 0 (R91). -/
def irqField (w0 : Word) : Bool := w0.getLsbD 24

/-- `CC`, bits [17:16] of word 0 (R91). -/
def ccField (w0 : Word) : BitVec 2 := w0.extractLsb' 16 2

/-- `BC`, bits [11:0] of word 0 (R91). -/
def bcField (w0 : Word) : BitVec 12 := w0.extractLsb' 0 12

/-- A `WRITE` from its two words (R91 to R96, R98). -/
def decodeWrite (w0 w1 : Word) : Except Reject Instr :=
  if ccField w0 = 0b10#2 then .error .riscCounterControl
  else .ok (.write (irqField w0) (ccField w0) (bcField w0) w1)

/-- A `JUMP` from its second word (R96, R98). -/
def decodeJump (w1 : Word) : Except Reject Instr :=
  if w1.toNat % 4 = 0 then .ok (.jump w1) else .error .riscJumpTarget

/-- The decoder of the two-word instructions, given the opcode, word 0 and the bytes that follow it. -/
def decodeTwoWord (op : BitVec 4) (w0 : Word) : List Byte → Except Reject (Instr × List Byte)
  | b4 :: b5 :: b6 :: b7 :: rest =>
    (if op = 0x1#4 then decodeWrite w0 (wordOfBytes b4 b5 b6 b7)
      else decodeJump (wordOfBytes b4 b5 b6 b7)).map fun i => (i, rest)
  | _ => .error .riscTruncated

/-- What word 0 begins: the length follows from `OPCODE` alone (R97). -/
def decodeFrom (w0 : Word) (rest : List Byte) : Except Reject (Instr × List Byte) :=
  if opcodeField w0 = 0x8#4 then .ok (.sync, rest)
  else if opcodeField w0 = 0x1#4 ∨ opcodeField w0 = 0x7#4 then decodeTwoWord (opcodeField w0) w0 rest
  else .error .riscOpcode

/-- The RISC decoder: the instruction the bytes begin with, and the bytes after it (R91 to R98). -/
def decodeBytes : List Byte → Except Reject (Instr × List Byte)
  | b0 :: b1 :: b2 :: b3 :: rest => decodeFrom (wordOfBytes b0 b1 b2 b3) rest
  | _ => .error .riscTruncated

/-! ## Command words -/

/-- `OPC`, bits [127:120] (R100). -/
def opcField (w : CmdWord) : BitVec 8 := w.extractLsb' 120 8

/-- `NB`, bit [119] (R100). -/
def nbField (w : CmdWord) : Bool := w.getLsbD 119

/-- `RSV`, bits [118:112] (R100). -/
def rsvField (w : CmdWord) : BitVec 7 := w.extractLsb' 112 7

/-- `SID`, bits [111:96] (R100). -/
def sidField (w : CmdWord) : Slot := w.extractLsb' 96 16

/-- `LEN`, bits [95:64] (R100). -/
def lenField (w : CmdWord) : Word := w.extractLsb' 64 32

/-- `DST`, bits [63:0] (R100). -/
def dstField (w : CmdWord) : Long := w.extractLsb' 0 64

/-- The instruction an `OPC` value names, with the word's operands (R101). -/
def commandOf (w : CmdWord) : Option Instr :=
  if opcField w = 0x01#8 then some (.openSession (sidField w))
  else if opcField w = 0x02#8 then some (.read (nbField w) (sidField w) (lenField w) (dstField w))
  else if opcField w = 0x03#8 then some (.closeSession (sidField w))
  else if opcField w = 0x04#8 then some (.generate (sidField w))
  else none

/-- The command decoder: `OPC` is checked before `RSV` (R105, checks 1 and 2). -/
def decodeCommand (w : CmdWord) : Except Reject Instr :=
  match commandOf w with
  | none => .error .cmdOpcode
  | some i => if rsvField w = 0#7 then .ok i else .error .cmdReserved

/-! ## The opcode table's numbering -/

/-- Byte `k` of a number, little-endian. -/
def byteOfNat (w k : Nat) : Byte := BitVec.ofNat 8 (w / 2 ^ (8 * k))

/-- The bytes of the longest RISC instruction whose bits are `w`: word 0 is bits 31..0, word 1 is
bits 63..32, each little-endian, word 0 at the lowest address. -/
def tableBytes (w : Nat) : List Byte := (List.range 8).map (byteOfNat w)

/-- The instruction this decoder reads from a row's bits: up to 64 bits are the words of a RISC
instruction, more are one command word. -/
def decodeTableWord (nbits w : Nat) : Option Instr :=
  if nbits ≤ 64 then (decodeBytes (tableBytes w)).toOption.map Prod.fst
  else (decodeCommand (BitVec.ofNat 128 w)).toOption

/-! ## The encoder -/

/-- Word 0 of a `WRITE`, reserved bits 0 (R91). -/
def writeWord0 (irq : Bool) (cc : BitVec 2) (bc : BitVec 12) : Word :=
  0x1#4 ++ 0#3 ++ BitVec.ofBool irq ++ 0#6 ++ cc ++ 0#4 ++ bc

/-- A command word, `RSV` 0 (R100). -/
def commandWord (opc : BitVec 8) (nb : Bool) (sid : Slot) (len : Word) (dst : Long) : CmdWord :=
  opc ++ BitVec.ofBool nb ++ 0#7 ++ sid ++ len ++ dst

/-- What an instruction is written as: RISC words, or one command word (R90). -/
inductive Code where
  | risc (words : List Word)
  | command (word : CmdWord)
  deriving DecidableEq, Repr

/-- The encoding of an instruction, ignored bits 0 (R91 to R101). -/
def encode : Instr → Code
  | .sync => .risc [0x80000000#32]
  | .write irq cc bc addr => .risc [writeWord0 irq cc bc, addr]
  | .jump target => .risc [0x70000000#32, target]
  | .openSession sid => .command (commandWord 0x01 false sid 0 0)
  | .read nb sid len dst => .command (commandWord 0x02 nb sid len dst)
  | .closeSession sid => .command (commandWord 0x03 false sid 0 0)
  | .generate sid => .command (commandWord 0x04 false sid 0 0)

/-- The RISC words of an instruction; a command has none. -/
def riscWords (i : Instr) : List Word :=
  match encode i with
  | .risc ws => ws
  | .command _ => []

/-- The decoder on what the encoder writes. -/
def decode : Code → Except Reject Instr
  | .risc ws => (decodeBytes (ws.flatMap bytesOfWord)).map Prod.fst
  | .command w => decodeCommand w

end Sys2Proof
end

