-- ==== Sys2Proof/Config.lean ====
section
/-! DEFINITION. What an implementation fixes (00_scope.md R8), the alphabet of events the agents and
the host take turns in (R16), and the values the spec leaves open, as constants with no body. -/

namespace Sys2Proof

/-- The sizes the model takes as arguments (00_scope.md R8). -/
structure Params where
  /-- `PAGE_SIZE`, bytes in one ring page. -/
  pageSize : Nat
  /-- `PAGE_COUNT`, pages in the ring. -/
  pageCount : Nat
  /-- `NSESS`, session slots. -/
  nsess : Nat
  deriving DecidableEq, Repr

/-- The constraints of 00_scope.md R8 on the sizes. -/
abbrev Params.valid (p : Params) : Prop :=
  p.pageSize % 2 = 0 ∧ 12 ≤ p.pageSize ∧ p.pageSize / 2 ≤ 4095 ∧ 2 ≤ p.pageCount ∧
    p.pageCount * p.pageSize ≤ 2 ^ 32 ∧ 1 ≤ p.nsess ∧ p.nsess ≤ 65536

/-- Parameter set T (00_scope.md R18). -/
def Params.setT : Params := { pageSize := 16, pageCount := 8, nsess := 2 }

/-- One box of the predicate `DstAdmit` (20_memory.md R72): writes that start between `first` and
`last`, have `minLen` to `maxLen` bytes and end at or before `limit`. -/
structure DstBox where
  first : Nat
  last : Nat
  minLen : Nat
  maxLen : Nat
  limit : Nat
  deriving DecidableEq, Repr

/-- Who takes the next atomic step, and with what input (00_scope.md R16). -/
inductive Event where
  /-- The producer takes its enabled step, if it has one (40_risc_program.md R120). -/
  | producer
  /-- The read engine of a slot takes its enabled step, if it has one (43_session_commands.md R188). -/
  | engine (slot : Nat)
  /-- The host sends a command word (30_encoding.md R108). -/
  | command (word : CmdWord)
  /-- The host reads a register (10_state.md R37). -/
  | regRead (off : Nat)
  /-- The host writes a register (10_state.md R37). -/
  | regWrite (off : Nat) (value : Word)
  /-- The host asserts reset (70_reset_and_hazards.md R270). -/
  | reset
  /-- The host changes which caller-buffer writes it admits (20_memory.md R72). -/
  | setDstAdmit (boxes : List DstBox)
  /-- The host stores bytes into PHYS (95_test_vectors.md 3.7; 70_reset_and_hazards.md R282). -/
  | hostStore (addr : Word) (bytes : List Byte)
  /-- The host stores bytes into DST, which it owns (20_memory.md R63). -/
  | hostStoreDst (addr : Long) (bytes : List Byte)
  deriving DecidableEq, Repr, Inhabited

/-- The sample stream `Sample` (20_memory.md R66): any function; nothing is known of it (log 3). -/
opaque Config.sample : (index : Nat) → Byte

/-- What a PHYS byte that nothing has written holds (10_state.md R42): unspecified (log 6). -/
opaque Config.unwritten : (addr : Nat) → Byte

/-- An unspecified value of `w` bits: a fresh one for every use (00_scope.md R15) and, within one use,
for every index (log 7). -/
opaque Config.freeBits : (w : Nat) → (use : Nat) → (index : Nat) → BitVec w

/-- The schedule (00_scope.md R16, 70_reset_and_hazards.md R290): which event comes at a turn for
which State lists none; any event may (log 1). -/
opaque Config.event : (turn : Nat) → Event

end Sys2Proof
end

