-- ==== Sys2Proof/Machine/State.lean ====
section
/-! DEFINITION. The state of the block as plain data (10_state.md R20 to R34), the reasons a step can
stop, and the state after reset (R42). -/

namespace Sys2Proof.Machine

open Sys2Proof

/-- Byte memory: what has been written, by strictly rising address. An unlisted address holds no known
value, so no listed entry repeats what an unlisted one reads as (log 6). -/
abbrev Memory := List Host.Cell

/-- `PW`, the in-flight `WRITE` (10_state.md R23). -/
structure PendingWrite where
  active : Bool
  /-- Address of the next byte, with a carry bit (log 11). -/
  addr : PhysPtr
  /-- Bytes still to write. -/
  left : BitVec 12
  cc : BitVec 2
  irq : Bool
  deriving DecidableEq, Repr

/-- `SESS[s]` (10_state.md R33). -/
structure Session where
  valid : Bool
  pos : Long
  initialPage : Word
  deriving DecidableEq, Repr

/-- `RD[s].PHASE` (10_state.md R34). -/
inductive Phase where
  | idle
  | loop
  | cread
  | cdeliver
  | czero
  | poll
  deriving DecidableEq, Repr

/-- `RD[s]`, the working registers of a read engine (10_state.md R34). While `phase` is `idle` the other
fields hold no meaningful value; the model keeps there what the last `READ` left (log 21). -/
structure ReadEngine where
  phase : Phase
  /-- The call is non-blocking. -/
  nb : Bool
  /-- Requested bytes still to deliver. -/
  rem : Word
  /-- Caller address of the next byte. -/
  dptr : Long
  /-- Bytes delivered so far in this call. -/
  rv : Word
  /-- `target_page`. -/
  tgt : Word
  /-- `hw_page` as last sampled. -/
  hwp : Word
  /-- Chunk length. -/
  clen : Nat
  /-- Byte index inside the chunk. -/
  cidx : Nat
  /-- The staging bytes of the chunk. -/
  cb : List Byte
  deriving DecidableEq, Repr

/-- The machine: the block's state (10_state.md R20), the caller's buffer the block writes
(20_memory.md R63), the arguments of the model (00_scope.md R8), and the model's own fields. -/
structure State where
  /-- `PAGE_SIZE`, `PAGE_COUNT`, `NSESS`: arguments, never changed (log 2). -/
  params : Params
  /-- `RPC` (R21). -/
  rpc : PhysPtr
  /-- `GPCNT` (R22). -/
  gpcnt : Word
  /-- `PW` (R23). -/
  pw : PendingWrite
  /-- `SRC_IDX` (R24). -/
  srcIdx : Nat
  /-- `RISC_ERR` (R25). -/
  riscErr : Bool
  /-- `INTSTAT.DRDY` (R26). -/
  intstat : Bool
  /-- `INTMSK.DRDY` (R27). -/
  intmsk : Bool
  /-- `CTRL.RUN` (R29). -/
  run : Bool
  /-- `FMT` (R30). -/
  fmt : Bool
  /-- Bits [31:2] of `PROG_BASE`; bits [1:0] are hard-wired to 0 (R31). -/
  progBaseHi : BitVec 30
  /-- `PAGE_ADDR[i]`, in page order (R32). -/
  pageAddr : List Word
  /-- `SESS[s]`, in slot order (R33). -/
  sess : List Session
  /-- `RD[s]`, in slot order (R34). -/
  rd : List ReadEngine
  /-- PHYS: ring pages and program region (20_memory.md R61, R62). -/
  phys : Memory
  /-- DST: the caller's buffer (20_memory.md R63). -/
  dst : Memory
  /-- `DstAdmit` as the host has it now: an argument (20_memory.md R72; log 4). -/
  dstAdmit : List DstBox
  /-- The first bytes of `Sample`: an argument (20_memory.md R66; log 3). -/
  samples : List Byte
  /-- The MODEL's own: responses sent, newest first (30_encoding.md R106; log 8). -/
  responses : List RspWord
  /-- The MODEL's own: register values returned to the host, newest first (log 8). -/
  busReads : List Word
  /-- The MODEL's own: the events that come next (00_scope.md R16; log 1). -/
  schedule : List Event
  /-- The MODEL's own: how many events were taken (log 1). -/
  turn : Nat
  /-- The MODEL's own: how many times unspecified values were drawn (log 7). -/
  freeUses : Nat
  deriving DecidableEq, Repr

/-- Reasons to stop with a fault. None: the block's two exceptions end an operation and the machine
goes on (60_exceptions.md R241, R243, R248), and refused commands are answered (30_encoding.md R105). -/
inductive Fault where
  deriving DecidableEq, Repr

/-- Situations to which the spec gives no meaning: a run that meets one is outside the spec
(00_scope.md R15; 60_exceptions.md R252). All are safe: nothing is claimed of what follows. -/
inductive Refusal where
  /-- An instruction of the table without a meaning; raised by no arm of `exec`. Safe. -/
  | notModelled (mnemonic : String)
  /-- A register access off the map; raised by the register operations (10_state.md R37). Safe. -/
  | badRegisterOffset
  /-- The PHYS regions overlap, leave the address space or change while live; raised by the start
  action, by address-register writes and by `GENERATE` (20_memory.md R64). Safe. -/
  | badMemoryMap
  /-- A data access outside every ring page, or a host store past `2^32`; raised by the producer's
  transfer, by the read engines and by the host's store (20_memory.md R65). Safe. -/
  | outsidePhys
  /-- `GENERATE`, or a host store into the program region, while the producer can step
  (41_generator.md R147; 93_implementation_defined.md U7). Safe. -/
  | generateWhileRunning
  /-- A host store into a ring page while the producer runs or drains; raised by the host's store
  (70_reset_and_hazards.md R282; log 13). Safe. -/
  | ringWrittenByHost
  /-- A host store past the end of DST; raised by the host's store (log 13). Safe. -/
  | outsideDst
  deriving DecidableEq, Repr

/-- A closed session slot as reset leaves it (10_state.md R42; unspecified fields: log 5). -/
def Session.closed : Session := { valid := false, pos := 0, initialPage := 0 }

/-- An idle read engine with a staging buffer of `n` bytes (10_state.md R42; unspecified fields: log 5). -/
def ReadEngine.idle (n : Nat) : ReadEngine :=
  { phase := .idle, nb := false, rem := 0, dptr := 0, rv := 0, tgt := 0, hwp := 0, clen := 0,
    cidx := 0, cb := List.replicate n 0 }

/-- The machine right after reset with the given sizes (10_state.md R42). -/
def State.resetWith (p : Params) : State :=
  { params := p
    rpc := 0
    gpcnt := 0
    pw := { active := false, addr := 0, left := 0, cc := 0, irq := false }
    srcIdx := 0
    riscErr := false
    intstat := false
    intmsk := false
    run := false
    fmt := false
    progBaseHi := 0
    pageAddr := List.replicate p.pageCount 0
    sess := List.replicate p.nsess Session.closed
    rd := List.replicate p.nsess (ReadEngine.idle p.pageSize)
    phys := []
    dst := []
    dstAdmit := []
    samples := []
    responses := []
    busReads := []
    schedule := []
    turn := 0
    freeUses := 0 }

/-- The machine right after reset (10_state.md R42), with parameter set T (00_scope.md R18; log 2). -/
def State.reset : State := State.resetWith Params.setT

end Sys2Proof.Machine
end

