-- ==== Sys2Proof/Machine/Ops.lean ====
section
/-! DEFINITION. The named operations over memory, slots, ports and the sample source, and taking an
exception (00_scope.md R13 to R15; 20_memory.md; 60_exceptions.md R241, R243, R248). -/

namespace Sys2Proof.Machine

open Sys2Proof

/-! ## Byte memory -/

/-- What was written at an address, if anything was. -/
def Memory.read : Memory → Nat → Option Byte
  | [], _ => none
  | (k, v) :: m, a => if a = k then some v else Memory.read m a

/-- Write one byte; the list stays strictly rising. -/
def Memory.write : Memory → Nat → Byte → Memory
  | [], a, v => [(a, v)]
  | (k, w) :: m, a, v =>
    if a < k then (a, v) :: (k, w) :: m
    else if a = k then (k, v) :: m
    else (k, w) :: Memory.write m a v

/-- Write consecutive bytes, the first at the lowest address. -/
def Memory.writeBytes : Memory → Nat → List Byte → Memory
  | m, _, [] => m
  | m, a, v :: vs => Memory.writeBytes (Memory.write m a v) (a + 1) vs

/-- The canonical form: strictly rising addresses. An unlisted address reads as no known value, which
no entry can equal, so the form needs nothing more (log 6). -/
abbrev Memory.wf (m : Memory) : Prop := m.Pairwise fun x y => x.1 < y.1

/-- Every listed address lies below a bound. -/
abbrev Memory.below (m : Memory) (bound : Nat) : Prop := ∀ x ∈ m, x.1 < bound

/-- One byte of PHYS, `MemRead(a, 1)` (00_scope.md R14): what was written last, and where nothing was,
an unspecified value (log 6). -/
def State.physByte (s : State) (a : Nat) : Byte := (s.phys.read a).getD (Config.unwritten a)

/-- `n` consecutive bytes of PHYS. -/
def State.physBytes (s : State) (a n : Nat) : List Byte :=
  (List.range n).map fun k => s.physByte (a + k)

/-- `MemWrite(a, 1, v)` (00_scope.md R14). -/
def State.physWrite (s : State) (a : Nat) (v : Byte) : State := { s with phys := s.phys.write a v }

/-- Consecutive bytes written to PHYS. -/
def State.physWriteBytes (s : State) (a : Nat) (vs : List Byte) : State :=
  { s with phys := s.phys.writeBytes a vs }

/-- The byte the block last left at a DST address, if it left one (20_memory.md R63). -/
def State.dstByte (s : State) (a : Nat) : Option Byte := s.dst.read a

/-! ## Session slots -/

/-- `SESS[i]` (10_state.md R33). -/
def State.session (s : State) (i : Nat) : Session := s.sess.getD i Session.closed

/-- Write `SESS[i]`. -/
def State.setSession (s : State) (i : Nat) (v : Session) : State := { s with sess := s.sess.set i v }

/-- `RD[i]` (10_state.md R34). -/
def State.engine (s : State) (i : Nat) : ReadEngine :=
  s.rd.getD i (ReadEngine.idle s.params.pageSize)

/-- Write `RD[i]`. -/
def State.setEngine (s : State) (i : Nat) (v : ReadEngine) : State := { s with rd := s.rd.set i v }

/-! ## Ports -/

/-- `STATUS` codes of a response (30_encoding.md R106). -/
inductive Status where
  | done
  | fault
  | refused
  deriving DecidableEq, Repr

/-- The two bits of a status (30_encoding.md R106). -/
def statusBits : Status → BitVec 2
  | .done => 0
  | .fault => 1
  | .refused => 2

/-- A response word (30_encoding.md R106). -/
def responseWord (st : Status) (sid : Slot) (count : Word) : RspWord :=
  statusBits st ++ 0#14 ++ sid ++ count

/-- `respond(status, count)` (00_scope.md R15), with the slot of the command. -/
def State.respond (s : State) (st : Status) (sid : Slot) (count : Word) : State :=
  { s with responses := responseWord st sid count :: s.responses }

/-! ## The sample source -/

/-- `Sample(k)` (20_memory.md R66; log 3). -/
def State.sampleAt (s : State) (k : Nat) : Byte := s.samples.getD k (Config.sample k)

/-- The byte `NextSample()` returns (20_memory.md R66). -/
def State.nextSample (s : State) : Byte := s.sampleAt s.srcIdx

/-- What `NextSample()` leaves (20_memory.md R66). -/
def State.advanceSample (s : State) : State := { s with srcIdx := s.srcIdx + 1 }

/-! ## The caller's buffer -/

/-- One box of `DstAdmit`. -/
def DstBox.admits (b : DstBox) (a n : Nat) : Bool :=
  decide (b.first ≤ a ∧ a ≤ b.last ∧ b.minLen ≤ n ∧ n ≤ b.maxLen ∧ a + n ≤ b.limit)

/-- `DstAdmit(a, n)` (20_memory.md R72), false past the end of DST. -/
def State.admits (s : State) (a n : Nat) : Bool :=
  decide (a + n ≤ 2 ^ 64) && s.dstAdmit.any fun b => DstBox.admits b a n

/-- A `DstWrite` that succeeds (20_memory.md R72). -/
def State.dstDeliver (s : State) (a : Nat) (vs : List Byte) : State :=
  { s with dst := s.dst.writeBytes a vs }

/-- An index of free values: kind `c` (below 64), position `k`. -/
def freeIndex (c k : Nat) : Nat := 64 * k + c

/-- The free bytes a failed delivery of `n` bytes at `a` leaves: those inside DST (log 7). -/
def State.freeBytes (s : State) (a n : Nat) : List Byte :=
  (List.range (min n (2 ^ 64 - a))).map fun k => Config.freeBits 8 s.freeUses (freeIndex 0 k)

/-- A `DstWrite` that fails (20_memory.md R72): the bytes become unspecified, nothing else changes. -/
def State.dstScramble (s : State) (a n : Nat) : State :=
  { s with dst := s.dst.writeBytes a (s.freeBytes a n), freeUses := s.freeUses + 1 }

/-! ## Exceptions -/

/-- The two exceptions of the block (60_exceptions.md R246). -/
inductive Exc where
  /-- `RiscError` (R243). -/
  | riscError
  /-- `CallerBufferFault` in the read engine of a slot (R241). -/
  | callerBufferFault (slot : Nat)
  deriving DecidableEq, Repr

/-- Taking an exception (60_exceptions.md R248): exactly the state change its rule lists. Nothing is
saved, no vector is computed, no mode changes, and there is no return (R249). `RiscError` sets the
sticky bit; `CallerBufferFault` leaves the failing chunk's DST bytes unspecified, idles the engine
(its other fields stay as they are: log 21) and responds `FAULT` with count 0. -/
def takeException (e : Exc) (s : State) : State :=
  match e with
  | .riscError => { s with riscErr := true }
  | .callerBufferFault i =>
    ((s.dstScramble (s.engine i).dptr.toNat (s.engine i).clen).setEngine i
      { s.engine i with phase := .idle }).respond .fault (BitVec.ofNat 16 i) 0

/-! ## The schedule -/

/-- The event this turn takes: the listed one, else an unknown one (log 1). -/
def State.nextEvent (s : State) : Event := s.schedule.head?.getD (Config.event s.turn)

/-- The state with that event taken off the schedule. -/
def State.consumed (s : State) : State := { s with schedule := s.schedule.tail, turn := s.turn + 1 }

end Sys2Proof.Machine
end

