-- ==== Sys2Proof/Machine/Operands.lean ====
section
/-! DEFINITION. Addresses and the pure functions the rules compute operands with: sizes
(00_scope.md R8), the write-pointer tracker, the consumer's address map and the chunk clamp
(42_ring_arithmetic.md R160 to R165), and the regions of PHYS (20_memory.md R61 to R65). -/

namespace Sys2Proof.Machine

open Sys2Proof

/-! ## Sizes -/

/-- `CLUSTER_SIZE` (00_scope.md R8). -/
def clusterSize (p : Params) : Nat := p.pageSize / 2

/-- `RING_SIZE` (00_scope.md R8). -/
def ringSize (p : Params) : Nat := p.pageCount * p.pageSize

/-- `PROG_SIZE` (20_memory.md R62). -/
def progSize (p : Params) : Nat := 16 * p.pageCount + p.pageSize

/-! ## Ring arithmetic -/

/-- `last_completed_page(raw)` (42_ring_arithmetic.md R160). -/
def lastCompletedPage (pageCount raw : Nat) : Nat := if raw = 0 then pageCount - 1 else raw - 1

/-- `initial_page_of(raw)`, with the Euclidean remainder (42_ring_arithmetic.md R162). -/
def initialPageOf (pageCount raw : Nat) : Nat := (((raw : Int) - 1) % (pageCount : Int)).toNat

/-- The page of `pagemap(ip, pos)` (42_ring_arithmetic.md R163). -/
def pageOf (p : Params) (ip pos : Nat) : Nat :=
  (ip + pos % ringSize p / p.pageSize) % p.pageCount

/-- The offset of `pagemap(ip, pos)` (42_ring_arithmetic.md R163). -/
def offsetOf (p : Params) (pos : Nat) : Nat := pos % p.pageSize

/-- `pagemap(ip, pos)` (42_ring_arithmetic.md R163). -/
def pagemap (p : Params) (ip pos : Nat) : Nat × Nat := (pageOf p ip pos, offsetOf p pos)

/-- `chunk_len(pos, rem)` (42_ring_arithmetic.md R165). -/
def chunkLen (p : Params) (pos rem : Nat) : Nat := min (p.pageSize - pos % p.pageSize) rem

/-- The page of a session at a logical offset, as `RD[s].TGT` holds it. -/
def targetPage (p : Params) (ss : Session) (pos : Nat) : Word :=
  BitVec.ofNat 32 (pageOf p ss.initialPage.toNat pos)

/-- `hw_page` from the counter, as `RD[s].HWP` holds it (43_session_commands.md R186, R194). For a counter
above `PAGE_COUNT` it is no page index, so a fresh session is then not caught up, against the derived words
of R182: the model follows the formulas of 42_ring_arithmetic.md R160 to R162. DESIGN CHOICE, log 22. -/
def State.hwPage (s : State) : Word :=
  BitVec.ofNat 32 (lastCompletedPage s.params.pageCount s.gpcnt.toNat)

/-! ## Regions of PHYS -/

/-- `PROG_BASE` with its two low bits hard-wired to 0 (10_state.md R31). -/
def State.progBase (s : State) : Word := s.progBaseHi ++ 0#2

/-- `PAGE_ADDR[i]` (10_state.md R32). -/
def State.page (s : State) (i : Nat) : Word := s.pageAddr.getD i 0

/-- Two regions, each a base and a size, share no byte. -/
def disjointRegions (x y : Nat × Nat) : Bool := decide (x.1 + x.2 ≤ y.1 ∨ y.1 + y.2 ≤ x.1)

/-- The regions of the memory map (20_memory.md R64). -/
def State.regions (s : State) : List (Nat × Nat) :=
  (s.progBase.toNat, progSize s.params) ::
    s.pageAddr.map fun a => (a.toNat, s.params.pageSize)

/-- Premises (a) and (b) of the memory map (20_memory.md R64); (c) holds by the register. -/
def State.mapOk (s : State) : Bool :=
  decide (s.pageAddr.length = s.params.pageCount) &&
    (s.regions.all fun r => decide (r.1 + r.2 ≤ 2 ^ 32)) &&
    decide (s.regions.Pairwise fun x y => disjointRegions x y = true)

/-- The bytes `a .. a + n - 1` lie inside the program region and below `2^32`
(40_risc_program.md R121; 60_exceptions.md R243). -/
def State.inProgram (s : State) (a n : Nat) : Bool :=
  decide (s.progBase.toNat ≤ a ∧ a + n ≤ s.progBase.toNat + progSize s.params ∧ a + n ≤ 2 ^ 32)

/-- The byte `a` lies inside a ring page and below `2^32` (20_memory.md R61, R65). -/
def State.inRing (s : State) (a : Nat) : Bool :=
  decide (a < 2 ^ 32) &&
    s.pageAddr.any fun b => decide (b.toNat ≤ a ∧ a < b.toNat + s.params.pageSize)

/-- The address of byte `k` of the chunk a read engine is on: `PAGE_ADDR[TGT] + POS mod Z + k`
(43_session_commands.md R189); none if `TGT` names no page. -/
def State.chunkAddr (s : State) (i k : Nat) : Option Nat :=
  (s.pageAddr[(s.engine i).tgt.toNat]?).map fun base =>
    base.toNat + offsetOf s.params (s.session i).pos.toNat + k

/-- The bytes `CB[0 .. CLEN-1]` a delivery writes (43_session_commands.md R190). -/
def chunkBytes (e : ReadEngine) : List Byte := (List.range e.clen).map fun k => e.cb.getD k 0

/-! ## Conditions on agents -/

/-- The producer has an enabled step (40_risc_program.md R120). -/
def State.producerEnabled (s : State) : Bool := !s.riscErr && (s.pw.active || s.run)

/-- The block is live: no address register may change (20_memory.md R64 (d)). -/
def State.live (s : State) : Bool := s.run || s.pw.active || s.sess.any fun ss => ss.valid

end Sys2Proof.Machine
end

