-- ==== Sys2Proof/Machine/Generator.lean ====
section
/-! DEFINITION. The RISC program generator (41_generator.md R140 to R148). -/

namespace Sys2Proof.Machine

open Sys2Proof

/-- `IRQ_PERIOD` (00_scope.md R8). -/
def irqPeriod : Nat := 512

/-- The interrupt flag of the `n`-th emitted `WRITE`, `n` from 1 (41_generator.md R144). -/
def irqFlag (n : Nat) : Bool := decide (n % irqPeriod = 0)

/-- Counter control of the second-half `WRITE` of page `i` (41_generator.md R143). -/
def secondHalfCc (pageCount i : Nat) : BitVec 2 := if i + 1 < pageCount then 0b01 else 0b11

/-- The two `WRITE`s of page `i` (41_generator.md R142). -/
def pageWrites (s : State) (i : Nat) : List Instr :=
  [ .write (irqFlag (2 * i + 1)) 0b00 (BitVec.ofNat 12 (clusterSize s.params)) (s.page i),
    .write (irqFlag (2 * i + 2)) (secondHalfCc s.params.pageCount i)
      (BitVec.ofNat 12 (clusterSize s.params))
      (s.page i + BitVec.ofNat 32 (clusterSize s.params)) ]

/-- The program: one `SYNC`, two `WRITE`s for every page in page order, and a `JUMP` to the address
right after the `SYNC` (41_generator.md R142, R145). -/
def programOf (s : State) : List Instr :=
  .sync :: ((List.range s.params.pageCount).flatMap (pageWrites s) ++ [.jump (s.progBase + 4)])

/-- The words of the image, word index 0 first (41_generator.md R142). -/
def imageWords (s : State) : List Word := (programOf s).flatMap riscWords

/-- The program region after a generation: zeroed whole, then the image (41_generator.md R141). -/
def State.writeImage (s : State) : State :=
  (s.physWriteBytes s.progBase.toNat (List.replicate (progSize s.params) 0)).physWriteBytes
    s.progBase.toNat ((imageWords s).flatMap bytesOfWord)

/-- `GENERATE` (41_generator.md R141): refused as a run while the producer can step (R147), and where
the program region runs off PHYS (20_memory.md R64 (a)). -/
def execGenerate (sid : Slot) (s : State) : Host.Outcome State Fault Refusal :=
  if s.producerEnabled then .refused .generateWhileRunning
  else if 2 ^ 32 < s.progBase.toNat + progSize s.params then .refused .badMemoryMap
  else .next (s.writeImage.respond .done sid (BitVec.ofNat 32 (2 * s.params.pageCount + 2)))

end Sys2Proof.Machine
end

