-- ==== Sys2Proof/Machine/Flags.lean ====
section
/-! DEFINITION. The flag-like bits of the block and everything that computes one (10_state.md R26 to
R28, R39): the interrupt wire, `STATUS`, the counter control and the interrupt request of a completed
`WRITE`, the write-one-to-clear of `INTSTAT`, and the coercion of `FMT`. -/

namespace Sys2Proof.Machine

open Sys2Proof

/-- A register value with one flag in bit 0. -/
def flagWord (b : Bool) : Word := if b then 1 else 0

/-- `irq_out` (10_state.md R28). -/
def State.irqOut (s : State) : Bool := s.intstat && s.intmsk

/-- `STATUS`: `RISC_ERR` in bit 0, `BUSY` (a mirror of `PW.ACTIVE`) in bit 1 (10_state.md R36). -/
def State.statusReg (s : State) : Word :=
  (if s.riscErr then 1 else 0) ||| (if s.pw.active then 2 else 0)

/-- `BUFSZ = 1 + FMT` (10_state.md R30). -/
def State.bufsz (s : State) : Word := if s.fmt then 2 else 1

/-- What a completed `WRITE` with counter control `cc` makes of `GPCNT` (30_encoding.md R93;
40_risc_program.md R126). -/
def counterAfter (cc : BitVec 2) (gpcnt : Word) : Word :=
  if cc = 0b01#2 then gpcnt + 1 else if cc = 0b11#2 then 0 else gpcnt

/-- `INTSTAT.DRDY` after a completed `WRITE` (40_risc_program.md R126). -/
def drdyAfter (irq intstat : Bool) : Bool := irq || intstat

/-- `INTSTAT.DRDY` after a write of `INTSTAT`: bit 0 clears it (44_lifecycle_config.md R226). -/
def ackDrdy (v : Word) (intstat : Bool) : Bool := if v.getLsbD 0 then false else intstat

/-- `FMT` after a write: the whole word is compared with 1 (44_lifecycle_config.md R228). -/
def coerceFmt (v : Word) : Bool := decide (v = 1)

end Sys2Proof.Machine
end

