-- ==== Sys2Proof/Machine/HostEvents.lean ====
section
/-! DEFINITION. Reset as an input (70_reset_and_hazards.md R270), and what else the host may do
between steps: change `DstAdmit` (20_memory.md R72), store into PHYS (R282) and into its own DST. -/

namespace Sys2Proof.Machine

open Sys2Proof

/-- A read engine after a reset event: idle, every other field unspecified (10_state.md R42; log 7). -/
def State.freeEngine (s : State) (i : Nat) : ReadEngine :=
  { phase := .idle
    nb := (Config.freeBits 1 s.freeUses (freeIndex 3 i)).getLsbD 0
    rem := Config.freeBits 32 s.freeUses (freeIndex 4 i)
    dptr := Config.freeBits 64 s.freeUses (freeIndex 5 i)
    rv := Config.freeBits 32 s.freeUses (freeIndex 6 i)
    tgt := Config.freeBits 32 s.freeUses (freeIndex 7 i)
    hwp := Config.freeBits 32 s.freeUses (freeIndex 8 i)
    clen := (Config.freeBits 32 s.freeUses (freeIndex 9 i)).toNat
    cidx := (Config.freeBits 32 s.freeUses (freeIndex 10 i)).toNat
    cb := (List.range s.params.pageSize).map fun k =>
      Config.freeBits 8 s.freeUses (freeIndex 11 (i * s.params.pageSize + k)) }

/-- A session slot after a reset event: closed, the rest unspecified (10_state.md R42; log 7). -/
def State.freeSession (s : State) (i : Nat) : Session :=
  { valid := false
    pos := Config.freeBits 64 s.freeUses (freeIndex 12 i)
    initialPage := Config.freeBits 32 s.freeUses (freeIndex 13 i) }

/-- `PW` after a reset event: inactive, the rest unspecified (10_state.md R42; log 7). -/
def State.freePending (s : State) : PendingWrite :=
  { active := false
    addr := (Config.freeBits 32 s.freeUses (freeIndex 14 0)).setWidth 33
    left := Config.freeBits 12 s.freeUses (freeIndex 15 0)
    cc := Config.freeBits 2 s.freeUses (freeIndex 16 0)
    irq := (Config.freeBits 1 s.freeUses (freeIndex 17 0)).getLsbD 0 }

/-- The reset input (70_reset_and_hazards.md R270): every register takes its value of 10_state.md R42,
an unspecified one a free value; PHYS and DST are not written; a `READ` in progress gets no response. -/
def resetEvent (s : State) : State :=
  { s with
    rpc := (Config.freeBits 32 s.freeUses (freeIndex 18 0)).setWidth 33
    gpcnt := 0
    pw := s.freePending
    srcIdx := 0
    riscErr := false
    intstat := false
    intmsk := false
    run := false
    fmt := false
    progBaseHi := Config.freeBits 30 s.freeUses (freeIndex 19 0)
    pageAddr := (List.range s.params.pageCount).map fun i =>
      Config.freeBits 32 s.freeUses (freeIndex 20 i)
    sess := (List.range s.params.nsess).map s.freeSession
    rd := (List.range s.params.nsess).map s.freeEngine
    freeUses := s.freeUses + 1 }

/-- The ranges of two runs of bytes meet. -/
def rangesMeet (a n b m : Nat) : Bool := decide (0 < n ∧ 0 < m ∧ a < b + m ∧ b < a + n)

/-- A store of the host into PHYS. It may not touch the program region while the producer can step
(93_implementation_defined.md U7), nor a ring page while the producer runs or drains
(70_reset_and_hazards.md R282). -/
def hostStore (addr : Word) (vs : List Byte) (s : State) : Host.Outcome State Fault Refusal :=
  if 2 ^ 32 < addr.toNat + vs.length then .refused .outsidePhys
  else if s.producerEnabled ∧
      rangesMeet addr.toNat vs.length s.progBase.toNat (progSize s.params) then
    .refused .generateWhileRunning
  else if (s.run ∨ s.pw.active) ∧
      (s.pageAddr.any fun b => rangesMeet addr.toNat vs.length b.toNat s.params.pageSize) then
    .refused .ringWrittenByHost
  else .next (s.physWriteBytes addr.toNat vs)

/-- A store of the host into DST, its own space (20_memory.md R63). -/
def hostStoreDst (addr : Long) (vs : List Byte) (s : State) : Host.Outcome State Fault Refusal :=
  if 2 ^ 64 < addr.toNat + vs.length then .refused .outsideDst
  else .next (s.dstDeliver addr.toNat vs)

end Sys2Proof.Machine
end

