-- ==== Sys2Proof/Machine/Producer.lean ====
section
/-! DEFINITION. The producer: the fetch, the meanings of `SYNC`, `WRITE` and `JUMP`, and the transfer
and completion steps of a `WRITE` in flight (40_risc_program.md). -/

namespace Sys2Proof.Machine

open Sys2Proof

/-! ## The fetch -/

/-- The bytes a fetch sees from `RPC` on: the first word and, where it lies inside the program region,
the second (40_risc_program.md R121). A misaligned or outside `RPC` sees none. -/
def State.fetchWindow (s : State) : List Byte :=
  if s.rpc.toNat % 4 ≠ 0 then []
  else if s.inProgram s.rpc.toNat 8 then s.physBytes s.rpc.toNat 8
  else if s.inProgram s.rpc.toNat 4 then s.physBytes s.rpc.toNat 4
  else []

/-- The instruction a fetch finds at `RPC`, or why there is none (40_risc_program.md R121;
60_exceptions.md R243). -/
def State.fetch (s : State) : Except Reject Instr := (decodeBytes s.fetchWindow).map Prod.fst

/-! ## Meanings of the RISC instructions -/

/-- `SYNC`: `RPC <- RPC + 4`, nothing else (40_risc_program.md R123). -/
def execSync (s : State) : Host.Outcome State Fault Refusal := .next { s with rpc := s.rpc + 4 }

/-- `WRITE`, issue: the transfer is put in flight and `RPC` advances by 8; no byte moves. Counter
control `0b10` raises `RiscError` (40_risc_program.md R124). -/
def execWrite (irq : Bool) (cc : BitVec 2) (bc : BitVec 12) (addr : Word) (s : State) :
    Host.Outcome State Fault Refusal :=
  if cc = 0b10#2 then .next (takeException .riscError s)
  else .next { s with
    pw := { active := true, addr := addr.setWidth 33, left := bc, cc := cc, irq := irq }
    rpc := s.rpc + 8 }

/-- `JUMP`: `RPC` is loaded with the target; a target that is not a multiple of 4 raises `RiscError`
(40_risc_program.md R127). -/
def execJump (target : Word) (s : State) : Host.Outcome State Fault Refusal :=
  if target.toNat % 4 ≠ 0 then .next (takeException .riscError s)
  else .next { s with rpc := target.setWidth 33 }

/-! ## A `WRITE` in flight -/

/-- The transfer step: one sample byte to `PW.ADDR`, which must lie in a ring page
(40_risc_program.md R125). -/
def transferStep (s : State) : Host.Outcome State Fault Refusal :=
  if s.inRing s.pw.addr.toNat then
    .next { ((s.physWrite s.pw.addr.toNat s.nextSample).advanceSample) with
      pw := { s.pw with addr := s.pw.addr + 1, left := s.pw.left - 1 } }
  else .refused .outsidePhys

/-- The completion step: the counter update and the interrupt request, after every data byte
(40_risc_program.md R126). -/
def completionStep (s : State) : State :=
  { s with
    pw := { s.pw with active := false }
    gpcnt := counterAfter s.pw.cc s.gpcnt
    intstat := drdyAfter s.pw.irq s.intstat }

end Sys2Proof.Machine
end

