-- ==== Sys2Proof/Machine/ReadEngine.lean ====
section
/-! DEFINITION. The read engine of a slot: the steps of an accepted `READ`
(43_session_commands.md R188 to R195). -/

namespace Sys2Proof.Machine

open Sys2Proof

/-- End of a `READ`: `respond(DONE, RV)` and `PHASE <- IDLE` (43_session_commands.md R188). The other
fields of the engine, any value while idle (10_state.md R34), keep those of this `READ`: DESIGN CHOICE,
log 21. -/
def finishRead (i : Nat) (s : State) : State :=
  (s.setEngine i { s.engine i with phase := .idle }).respond .done (BitVec.ofNat 16 i) (s.engine i).rv

/-- The `LOOP` step: it compares with the latched `HWP` (43_session_commands.md R188). -/
def loopStep (i : Nat) (s : State) : State :=
  if (s.engine i).rem = 0 then finishRead i s
  else if (s.engine i).tgt ≠ (s.engine i).hwp then
    s.setEngine i { s.engine i with
      clen := chunkLen s.params (s.session i).pos.toNat (s.engine i).rem.toNat
      cidx := 0
      phase := .cread }
  else if (s.engine i).nb then finishRead i s
  else s.setEngine i { s.engine i with phase := .poll }

/-- The `CREAD` step: one ring byte into the staging buffer, or on to the delivery
(43_session_commands.md R189). -/
def creadStep (i : Nat) (s : State) : Host.Outcome State Fault Refusal :=
  if (s.engine i).cidx < (s.engine i).clen then
    match s.chunkAddr i (s.engine i).cidx with
    | none => .refused .outsidePhys
    | some a =>
      if s.inRing a then
        .next (s.setEngine i { s.engine i with
          cb := (s.engine i).cb.set (s.engine i).cidx (s.physByte a)
          cidx := (s.engine i).cidx + 1 })
      else .refused .outsidePhys
  else .next (s.setEngine i { s.engine i with phase := .cdeliver })

/-- The `CDELIVER` step: the whole chunk to the caller, or `CallerBufferFault`
(43_session_commands.md R190, R195). -/
def cdeliverStep (i : Nat) (s : State) : State :=
  if s.admits (s.engine i).dptr.toNat (s.engine i).clen then
    (s.dstDeliver (s.engine i).dptr.toNat (chunkBytes (s.engine i))).setEngine i
      { s.engine i with cidx := 0, phase := .czero }
  else takeException (.callerBufferFault i) s

/-- The engine a commit leaves (43_session_commands.md R192). -/
def committedEngine (i : Nat) (s : State) : ReadEngine :=
  { s.engine i with
    rem := (s.engine i).rem - BitVec.ofNat 32 (s.engine i).clen
    dptr := (s.engine i).dptr + BitVec.ofNat 64 (s.engine i).clen
    rv := (s.engine i).rv + BitVec.ofNat 32 (s.engine i).clen
    tgt := targetPage s.params (s.session i) ((s.session i).pos.toNat + (s.engine i).clen)
    phase := .loop }

/-- The commit: `POS` and the counts advance by the chunk, the target page is computed anew, `HWP` is
not refreshed (43_session_commands.md R192). -/
def commitStep (i : Nat) (s : State) : State :=
  (s.setSession i { s.session i with
      pos := (s.session i).pos + BitVec.ofNat 64 (s.engine i).clen }).setEngine i
    (committedEngine i s)

/-- The `CZERO` step: one copied ring byte set to 0, or the commit (43_session_commands.md R191). -/
def czeroStep (i : Nat) (s : State) : Host.Outcome State Fault Refusal :=
  if (s.engine i).cidx < (s.engine i).clen then
    match s.chunkAddr i (s.engine i).cidx with
    | none => .refused .outsidePhys
    | some a =>
      if s.inRing a then
        .next ((s.physWrite a 0).setEngine i { s.engine i with cidx := (s.engine i).cidx + 1 })
      else .refused .outsidePhys
  else .next (commitStep i s)

/-- The `POLL` step: the counter is sampled anew (43_session_commands.md R194). -/
def pollStep (i : Nat) (s : State) : State :=
  s.setEngine i { s.engine i with hwp := s.hwPage, phase := .loop }

/-- One step of the read engine of slot `i`; an idle engine has none, and the state stays
(43_session_commands.md R188 to R194). -/
def engineStep (i : Nat) (s : State) : Host.Outcome State Fault Refusal :=
  if s.params.nsess ≤ i then .next s
  else match (s.engine i).phase with
    | .idle => .next s
    | .loop => .next (loopStep i s)
    | .cread => creadStep i s
    | .cdeliver => .next (cdeliverStep i s)
    | .czero => czeroStep i s
    | .poll => .next (pollStep i s)

end Sys2Proof.Machine
end

