-- ==== Sys2Proof/Machine/Registers.lean ====
section
/-! DEFINITION. The register operations of the host (10_state.md R36, R37; 44_lifecycle_config.md
R220 to R231). -/

namespace Sys2Proof.Machine

open Sys2Proof

/-- The registers of the map (10_state.md R36). -/
inductive Reg where
  | ctrl
  | status
  | gpcnt
  | intmsk
  | intstat
  | fmt
  | bufsz
  | progBase
  | pageAddr (i : Nat)
  deriving DecidableEq, Repr

/-- The register at a byte offset, if the map has one (10_state.md R36, R37). -/
def regAt (p : Params) (off : Nat) : Option Reg :=
  if off = 0x00 then some .ctrl
  else if off = 0x04 then some .status
  else if off = 0x08 then some .gpcnt
  else if off = 0x0C then some .intmsk
  else if off = 0x10 then some .intstat
  else if off = 0x14 then some .fmt
  else if off = 0x18 then some .bufsz
  else if off = 0x1C then some .progBase
  else if off % 4 = 0 ∧ 0x100 ≤ off ∧ (off - 0x100) / 4 < p.pageCount then
    some (.pageAddr ((off - 0x100) / 4))
  else none

/-- What a register reads as, reserved bits 0 (44_lifecycle_config.md R230). -/
def regValue (s : State) : Reg → Word
  | .ctrl => flagWord s.run
  | .status => s.statusReg
  | .gpcnt => s.gpcnt
  | .intmsk => flagWord s.intmsk
  | .intstat => flagWord s.intstat
  | .fmt => flagWord s.fmt
  | .bufsz => s.bufsz
  | .progBase => s.progBase
  | .pageAddr i => s.page i

/-- `RegRead32` (10_state.md R37): the value goes to the host, no register changes. -/
def regRead (off : Nat) (s : State) : Host.Outcome State Fault Refusal :=
  match regAt s.params off with
  | none => .refused .badRegisterOffset
  | some r => .next { s with busReads := regValue s r :: s.busReads }

/-- The start action (44_lifecycle_config.md R221), which launches the producer on a memory map that
must hold the premises of 20_memory.md R64 (log 12). -/
def startAction (s : State) : Host.Outcome State Fault Refusal :=
  if s.mapOk then
    .next { s with
      rpc := s.progBase.setWidth 33
      gpcnt := 0
      pw := { s.pw with active := false }
      run := true }
  else .refused .badMemoryMap

/-- The stop action (44_lifecycle_config.md R222). -/
def stopAction (s : State) : State := { s with run := false }

/-- A write of `CTRL` (44_lifecycle_config.md R221 to R223). -/
def writeCtrl (v : Word) (s : State) : Host.Outcome State Fault Refusal :=
  if v.getLsbD 0 then (if s.run then .next s else startAction s) else .next (stopAction s)

/-- A write of `PROG_BASE` (44_lifecycle_config.md R229); a change while the block is live breaks
20_memory.md R64 (d). -/
def writeProgBase (v : Word) (s : State) : Host.Outcome State Fault Refusal :=
  if s.live ∧ v.extractLsb' 2 30 ≠ s.progBaseHi then .refused .badMemoryMap
  else .next { s with progBaseHi := v.extractLsb' 2 30 }

/-- A write of `PAGE_ADDR[i]` (44_lifecycle_config.md R229); a change while the block is live breaks
20_memory.md R64 (d). -/
def writePageAddr (i : Nat) (v : Word) (s : State) : Host.Outcome State Fault Refusal :=
  if s.live ∧ v ≠ s.page i then .refused .badMemoryMap
  else .next { s with pageAddr := s.pageAddr.set i v }

/-- The write rule of each register (44_lifecycle_config.md R221 to R229, R231). -/
def writeReg (v : Word) (s : State) : Reg → Host.Outcome State Fault Refusal
  | .ctrl => writeCtrl v s
  | .status => .next s
  | .gpcnt => .next s
  | .intmsk => .next { s with intmsk := v.getLsbD 0 }
  | .intstat => .next { s with intstat := ackDrdy v s.intstat }
  | .fmt => .next { s with fmt := coerceFmt v }
  | .bufsz => .next s
  | .progBase => writeProgBase v s
  | .pageAddr i => writePageAddr i v s

/-- `RegWrite32` (10_state.md R37). -/
def regWrite (off : Nat) (v : Word) (s : State) : Host.Outcome State Fault Refusal :=
  match regAt s.params off with
  | none => .refused .badRegisterOffset
  | some r => writeReg v s r

end Sys2Proof.Machine
end

