-- ==== Sys2Proof/Machine/Session.lean ====
section
/-! DEFINITION. The command decoder's `OPEN`, `CLOSE` and the accept step of `READ`, with the checks
that refuse a command (43_session_commands.md R181 to R187; 30_encoding.md R105). -/

namespace Sys2Proof.Machine

open Sys2Proof

/-- The reasons a command is refused (30_encoding.md R105). -/
inductive RefuseReason where
  | badOpcode
  | badReserved
  | badSid
  | notOpen
  | alreadyOpen
  | busy
  | posOverflow
  | dstOverflow
  deriving DecidableEq, Repr

/-- The reason codes (30_encoding.md R105). -/
def reasonCode : RefuseReason → Word
  | .badOpcode => 1
  | .badReserved => 2
  | .badSid => 3
  | .notOpen => 4
  | .alreadyOpen => 5
  | .busy => 6
  | .posOverflow => 7
  | .dstOverflow => 8

/-- A refused command is answered and changes no state of the block (30_encoding.md R105). -/
def State.refuseCommand (s : State) (sid : Slot) (r : RefuseReason) : State :=
  s.respond .refused sid (reasonCode r)

/-- The checks of `OPEN`, in order (30_encoding.md R105, checks 3 and 5). -/
def openCheck (sid : Slot) (s : State) : Option RefuseReason :=
  if s.params.nsess ≤ sid.toNat then some .badSid
  else if (s.session sid.toNat).valid then some .alreadyOpen
  else none

/-- The checks `READ` and `CLOSE` share, in order (30_encoding.md R105, checks 3, 4 and 6). -/
def slotCheck (sid : Slot) (s : State) : Option RefuseReason :=
  if s.params.nsess ≤ sid.toNat then some .badSid
  else if (s.session sid.toNat).valid = false then some .notOpen
  else if (s.engine sid.toNat).phase ≠ .idle then some .busy
  else none

/-- The checks of `READ`, in order (30_encoding.md R105, checks 3, 4, 6, 7 and 8). -/
def readCheck (sid : Slot) (len : Word) (dst : Long) (s : State) : Option RefuseReason :=
  match slotCheck sid s with
  | some r => some r
  | none =>
    if 2 ^ 64 ≤ (s.session sid.toNat).pos.toNat + len.toNat then some .posOverflow
    else if 2 ^ 64 < dst.toNat + len.toNat then some .dstOverflow
    else none

/-- The snapshot `OPEN` takes of the counter (43_session_commands.md R181). It is the `hw_page` of the same
counter only up to `PAGE_COUNT` (log 22). -/
def State.openPage (s : State) : Word :=
  BitVec.ofNat 32 (initialPageOf s.params.pageCount s.gpcnt.toNat)

/-- `OPEN` (43_session_commands.md R181). -/
def execOpenSession (sid : Slot) (s : State) : Host.Outcome State Fault Refusal :=
  match openCheck sid s with
  | some r => .next (s.refuseCommand sid r)
  | none =>
    .next ({ (s.setSession sid.toNat { valid := true, pos := 0, initialPage := s.openPage }) with
      intmsk := true }.respond .done sid s.openPage)

/-- The session a `CLOSE` leaves: `POS` and `INITIAL_PAGE` become unspecified
(43_session_commands.md R183; log 7). -/
def State.closedSession (s : State) : Session :=
  { valid := false
    pos := Config.freeBits 64 s.freeUses (freeIndex 1 0)
    initialPage := Config.freeBits 32 s.freeUses (freeIndex 2 0) }

/-- `CLOSE` (43_session_commands.md R183). -/
def execCloseSession (sid : Slot) (s : State) : Host.Outcome State Fault Refusal :=
  match slotCheck sid s with
  | some r => .next (s.refuseCommand sid r)
  | none =>
    .next ({ (s.setSession sid.toNat s.closedSession) with
      intmsk := false, freeUses := s.freeUses + 1 }.respond .done sid 0)

/-- What the accept step latches into `RD[s]` (43_session_commands.md R186). -/
def State.latched (s : State) (nb : Bool) (sid : Slot) (len : Word) (dst : Long) : ReadEngine :=
  { s.engine sid.toNat with
    nb := nb
    rem := len
    dptr := dst
    rv := 0
    tgt := targetPage s.params (s.session sid.toNat) (s.session sid.toNat).pos.toNat
    hwp := s.hwPage }

/-- The accept step of `READ`: a caught-up non-blocking call is answered with 0 bytes, every other
call starts the read engine (43_session_commands.md R186). The idle engine of an answered call keeps what
was latched (log 21). -/
def acceptRead (nb : Bool) (sid : Slot) (len : Word) (dst : Long) (s : State) : State :=
  let e := s.latched nb sid len dst
  if e.tgt = e.hwp ∧ nb = true then (s.setEngine sid.toNat e).respond .done sid 0
  else s.setEngine sid.toNat { e with phase := .loop }

/-- `READ`, the step that receives it (43_session_commands.md R185, R186). -/
def execRead (nb : Bool) (sid : Slot) (len : Word) (dst : Long) (s : State) :
    Host.Outcome State Fault Refusal :=
  match readCheck sid len dst s with
  | some r => .next (s.refuseCommand sid r)
  | none => .next (acceptRead nb sid len dst s)

end Sys2Proof.Machine
end

