-- ==== Sys2Proof/Machine/Agents.lean ====
section
/-! DEFINITION. One turn: the chosen agent's step, up to the instruction it runs, if it runs one
(00_scope.md R16). -/

namespace Sys2Proof.Machine

open Sys2Proof

/-- What a turn comes to: an instruction to execute, or a step that is done. -/
inductive Turn where
  | execute (i : Instr) (s : State)
  | finished (o : Host.Outcome State Fault Refusal)

/-- The producer's turn (40_risc_program.md R120, R121): the `WRITE` in flight goes on; else, if
`CTRL.RUN`, the next instruction is fetched, and a fetch that finds none raises `RiscError`. A
disabled producer has no step, and the state stays. -/
def producerTurn (s : State) : Turn :=
  if s.riscErr then .finished (.next s)
  else if s.pw.active then
    .finished (if s.pw.left = 0 then .next (completionStep s) else transferStep s)
  else if s.run then
    match s.fetch with
    | .ok i => .execute i s
    | .error _ => .finished (.next (takeException .riscError s))
  else .finished (.next s)

/-- The command decoder's turn (30_encoding.md R105, R108): a word that decodes is executed, every
other one is refused with reason 1 or 2. -/
def commandTurn (w : CmdWord) (s : State) : Turn :=
  match decodeCommand w with
  | .ok i => .execute i s
  | .error .cmdReserved => .finished (.next (s.refuseCommand (sidField w) .badReserved))
  | .error _ => .finished (.next (s.refuseCommand (sidField w) .badOpcode))

/-- The turn an event stands for (00_scope.md R16). -/
def takeTurn (e : Event) (s : State) : Turn :=
  match e with
  | .producer => producerTurn s
  | .engine i => .finished (engineStep i s)
  | .command w => commandTurn w s
  | .regRead off => .finished (regRead off s)
  | .regWrite off v => .finished (regWrite off v s)
  | .reset => .finished (.next (resetEvent s))
  | .setDstAdmit bs => .finished (.next { s with dstAdmit := bs })
  | .hostStore a vs => .finished (hostStore a vs s)
  | .hostStoreDst a vs => .finished (hostStoreDst a vs s)

/-! ## Placing an instruction for the next step -/

/-- The address at which an instruction can be put for the producer to fetch it: `RPC` where eight
bytes there can be fetched, else the start of the program region. -/
def State.fetchPlace (s : State) : PhysPtr :=
  if s.rpc.toNat % 4 = 0 ∧ s.inProgram s.rpc.toNat 8 = true then s.rpc else s.progBase.setWidth 33

/-- The state with a RISC instruction's bytes where the producer fetches next, the producer running
and idle, and the producer's turn next. -/
def State.placeRisc (s : State) (bytes : List Byte) : State :=
  { (s.physWriteBytes s.fetchPlace.toNat bytes) with
    rpc := s.fetchPlace
    riscErr := false
    pw := { s.pw with active := false }
    run := true
    schedule := .producer :: s.schedule }

/-- The state in which the host sends a command word next. -/
def State.placeCommand (s : State) (w : CmdWord) : State :=
  { s with schedule := .command w :: s.schedule }

end Sys2Proof.Machine
end

