-- ==== Sys2Proof/Machine/Dispatch.lean ====
section
/-! DEFINITION. The meaning of each instruction, one arm per constructor. -/

namespace Sys2Proof.Machine

open Sys2Proof

def exec (i : Instr) (s : State) : Host.Outcome State Fault Refusal :=
  match i with
  | .sync => Sys2Proof.Machine.execSync s
  | .write irq cc bc addr => Sys2Proof.Machine.execWrite irq cc bc addr s
  | .jump target => Sys2Proof.Machine.execJump target s
  | .openSession sid => Sys2Proof.Machine.execOpenSession sid s
  | .read nb sid len dst => Sys2Proof.Machine.execRead nb sid len dst s
  | .closeSession sid => Sys2Proof.Machine.execCloseSession sid s
  | .generate sid => Sys2Proof.Machine.execGenerate sid s

end Sys2Proof.Machine
end

