-- ==== Sys2Proof/Machine/Step.lean ====
section
/-! DEFINITION. One atomic step of the block and its host (00_scope.md R16; 20_memory.md R76). -/

namespace Sys2Proof.Machine

open Sys2Proof

/-- One step: the next event is taken, and its agent's step is made. -/
def step (s : State) : Host.Outcome State Fault Refusal :=
  match takeTurn s.nextEvent s.consumed with
  | .execute i t => exec i t
  | .finished o => o

/-- `s` with the instruction whose bits are `w` where the next step runs it: a RISC instruction in the
program region at `RPC`, with the producer running and next to step; a command on the CMD port
(log 9). -/
def State.withFetchWord (s : State) (nbits w : Nat) : State :=
  if nbits ≤ 64 then s.placeRisc (tableBytes w) else s.placeCommand (BitVec.ofNat 128 w)

end Sys2Proof.Machine
end

