-- ==== Sys2Proof/Safety.lean ====
section
/-! DEFINITION. The terms claims use: the invariant every step keeps, what it is to run the generated
program (10_state.md R41; 60_exceptions.md R244), and the lag and overrun of a session, which no
hardware evaluates (42_ring_arithmetic.md R167 to R171). -/

namespace Sys2Proof.Machine

open Sys2Proof

/-! ## Reading memory -/

/-- The RISC word PHYS holds at an address, `MemRead(a, 4)` (00_scope.md R14). -/
def State.wordAt (s : State) (a : Nat) : Word :=
  wordOfBytes (s.physByte a) (s.physByte (a + 1)) (s.physByte (a + 2)) (s.physByte (a + 3))

/-- Every byte of PHYS and of DST reads in `t` as in `s`. -/
def sameMemory (s t : State) : Prop :=
  ∀ a, t.physByte a = s.physByte a ∧ t.dstByte a = s.dstByte a

/-! ## The invariant of the machine -/

/-- PHYS and DST are in canonical form and inside their spaces (20_memory.md R60). -/
structure MemoryInv (s : State) : Prop where
  phys_wf : Memory.wf s.phys
  phys_below : Memory.below s.phys (2 ^ 32)
  dst_wf : Memory.wf s.dst
  dst_below : Memory.below s.dst (2 ^ 64)

/-- Every indexed register exists for exactly its indices (10_state.md R32 to R34), with legal sizes
(00_scope.md R8). -/
structure ShapeInv (s : State) : Prop where
  sizes : s.params.valid
  pages : s.pageAddr.length = s.params.pageCount
  sessions : s.sess.length = s.params.nsess
  engines : s.rd.length = s.params.nsess

/-- The producer's control position: aligned whenever it can fetch (10_state.md R21), never past the
end of the address space by more than the carry; a `WRITE` in flight carries a legal counter control
(30_encoding.md R98), and none is in flight once `RISC_ERR` is set (60_exceptions.md R243). -/
structure ProducerInv (s : State) : Prop where
  aligned : s.run = true → s.rpc.toNat % 4 = 0
  rpc_le : s.rpc.toNat ≤ 2 ^ 32
  addr_le : s.pw.addr.toNat ≤ 2 ^ 32
  legal_cc : s.pw.active = true → s.pw.cc ≠ 0b10#2
  halted : s.riscErr = true → s.pw.active = false

/-- The read engine is moving a chunk. -/
def Phase.inChunk : Phase → Bool
  | .cread => true
  | .cdeliver => true
  | .czero => true
  | .idle => false
  | .loop => false
  | .poll => false

/-- A `READ` in progress (10_state.md R33, R34; 43_session_commands.md R185 to R194): the session is
open, the target page is the page of `POS`, the request fits the position, the caller's range and the
count, the chunk is the clamp of R165, and only a blocking call polls. -/
structure BusyInv (s : State) (i : Nat) : Prop where
  is_open : (s.session i).valid = true
  target : (s.engine i).tgt = targetPage s.params (s.session i) (s.session i).pos.toNat
  pos_room : (s.session i).pos.toNat + (s.engine i).rem.toNat < 2 ^ 64
  dst_room : (s.engine i).dptr.toNat + (s.engine i).rem.toNat ≤ 2 ^ 64
  count_room : (s.engine i).rv.toNat + (s.engine i).rem.toNat < 2 ^ 32
  chunk : (s.engine i).phase.inChunk = true →
    (s.engine i).rem ≠ 0 ∧ (s.engine i).cidx ≤ (s.engine i).clen ∧
      (s.engine i).clen = chunkLen s.params (s.session i).pos.toNat (s.engine i).rem.toNat
  staged : (s.engine i).phase = .cdeliver → (s.engine i).cidx = (s.engine i).clen
  polling : (s.engine i).phase = .poll → (s.engine i).nb = false

/-- One session slot (10_state.md R33, R34). -/
structure SlotInv (s : State) (i : Nat) : Prop where
  staging : (s.engine i).cb.length = s.params.pageSize
  anchored : (s.session i).valid = true → (s.session i).initialPage.toNat < s.params.pageCount
  busy : (s.engine i).phase ≠ .idle → BusyInv s i

/-- The invariant of the machine: what holds in every state a run can be in. -/
structure State.Inv (s : State) : Prop where
  memory : MemoryInv s
  shape : ShapeInv s
  producer : ProducerInv s
  slots : ∀ i, i < s.params.nsess → SlotInv s i

/-! ## Running the generated program -/

/-- The bytes of the image (41_generator.md R142). -/
def imageBytes (s : State) : List Byte := (imageWords s).flatMap bytesOfWord

/-- The program region holds the image `GENERATE` writes. -/
def State.hasImage (s : State) : Prop :=
  ∀ k b, (imageBytes s)[k]? = some b → s.phys.read (s.progBase.toNat + k) = some b

/-- Address of the `j`-th `WRITE` of the program, `j` from 0; `j = 2 * PAGE_COUNT` is the `JUMP`
(41_generator.md R142). -/
def State.writeAt (s : State) (j : Nat) : Nat := s.progBase.toNat + 4 + 8 * j

/-- The `WRITE` number `n` since the start action, `n` from 0, is in flight with `d` bytes moved:
its words are those of the program, it fills half a page, and the counter is the index of the page
it fills (10_state.md R41). -/
structure InFlight (s : State) (src0 n d : Nat) : Prop where
  active : s.pw.active = true
  moved : d ≤ clusterSize s.params
  left : s.pw.left.toNat = clusterSize s.params - d
  addr : s.pw.addr.toNat = (s.page (n / 2 % s.params.pageCount)).toNat + n % 2 * clusterSize s.params + d
  cc : s.pw.cc = if n % 2 = 0 then 0b00 else secondHalfCc s.params.pageCount (n / 2 % s.params.pageCount)
  irq : s.pw.irq = irqFlag (n % (2 * s.params.pageCount) + 1)
  rpc : s.rpc.toNat = s.writeAt (n % (2 * s.params.pageCount) + 1)
  source : s.srcIdx = src0 + n * clusterSize s.params + d
  counter : s.gpcnt.toNat = n / 2 % s.params.pageCount

/-- `n` `WRITE`s have completed since the start action and none is in flight: the producer is at the
`SYNC`, at a `WRITE`, or at the `JUMP` (40_risc_program.md R128). -/
structure BetweenWrites (s : State) (src0 n : Nat) : Prop where
  inactive : s.pw.active = false
  rpc : (n = 0 ∧ s.rpc.toNat = s.progBase.toNat) ∨
    s.rpc.toNat = s.writeAt (n % (2 * s.params.pageCount)) ∨
    (0 < n ∧ n % (2 * s.params.pageCount) = 0 ∧ s.rpc.toNat = s.writeAt (2 * s.params.pageCount))
  source : s.srcIdx = src0 + n * clusterSize s.params
  counter : s.gpcnt.toNat = n / 2 % s.params.pageCount

/-- The producer runs the generated program over a legal memory map, having started when `SRC_IDX`
was `src0` (10_state.md R41). -/
structure Producing (s : State) (src0 : Nat) : Prop where
  sizes : s.params.valid
  map : s.mapOk = true
  image : s.hasImage
  no_error : s.riscErr = false
  position : (∃ n d, InFlight s src0 n d) ∨ ∃ n, BetweenWrites s src0 n

/-! ## Lag and overrun -/

/-- `lag(s)` (42_ring_arithmetic.md R169): pages completed since the start action, less those
completed at open, less the whole pages the session has consumed. -/
def lag (p : Params) (nc nc0 pos : Nat) : Int := (nc : Int) - nc0 - ((pos / p.pageSize : Nat) : Int)

/-- `Overrun` (42_ring_arithmetic.md R170). -/
def Overrun (p : Params) (nc nc0 pos : Nat) : Prop := (p.pageCount : Int) - 1 ≤ lag p nc nc0 pos

/-- What `NoOverrun` asks of one state (42_ring_arithmetic.md R171). -/
def NoOverrun (p : Params) (nc nc0 pos : Nat) : Prop := lag p nc nc0 pos ≤ (p.pageCount : Int) - 2

/-- A session is caught up to a sampled `hw_page` (42_ring_arithmetic.md R167). -/
def caughtUp (target hw : Nat) : Prop := target = hw

/-- The bookkeeping of 10_state.md R41 and 42_ring_arithmetic.md R169 beside a state: `NC`, `NC0` of
each slot, and the target of the `WRITE` issued last, which says what half of a page it fills. -/
structure Ledger where
  nc : Nat
  nc0 : List Nat
  target : Nat
  deriving DecidableEq, Repr

/-- The producer's step in this state completes a `WRITE` (40_risc_program.md R126). -/
def State.completesNow (s : State) : Bool :=
  decide (s.nextEvent = .producer) && !s.riscErr && s.pw.active && decide (s.pw.left = 0)

/-- The `WRITE` issued last is a second-half `WRITE`: its target is `PAGE_ADDR[i] + CLUSTER_SIZE` for
some page `i`, whatever its counter control (00_scope.md section 6, "first-half / second-half
`WRITE`"). -/
def Ledger.secondHalf (g : Ledger) (s : State) : Bool :=
  s.pageAddr.any fun b => decide (g.target = b.toNat + clusterSize s.params)

/-- The bookkeeping after the step from `s` to `t`: a start action restarts `NC`, the completion of a
second-half `WRITE` adds 1, a slot that opens records `NC`, and an issued `WRITE` its target
(42_ring_arithmetic.md R169). -/
def Ledger.next (g : Ledger) (s t : State) : Ledger :=
  { nc := if s.run = false ∧ t.run = true then 0
      else if s.completesNow && g.secondHalf s then g.nc + 1 else g.nc
    nc0 := (List.range s.params.nsess).map fun i =>
      if (s.session i).valid = false ∧ (t.session i).valid = true then g.nc else g.nc0.getD i 0
    target := if s.pw.active = false ∧ t.pw.active = true then t.pw.addr.toNat else g.target }

/-- The bookkeeping fits a state of the generated program: the counter is `NC` modulo `PAGE_COUNT`
(10_state.md R41), and the target noted is that of the `WRITE` in flight. -/
structure Agrees (g : Ledger) (s : State) : Prop where
  counter : s.gpcnt.toNat = g.nc % s.params.pageCount
  target : s.pw.active = true → g.target + clusterSize s.params = s.pw.addr.toNat + s.pw.left.toNat

/-- No open session is overrun, and at most one is open (42_ring_arithmetic.md R171). -/
def State.noOverrun (s : State) (g : Ledger) : Prop :=
  (∀ i, i < s.params.nsess → (s.session i).valid = true →
    NoOverrun s.params g.nc (g.nc0.getD i 0) (s.session i).pos.toNat) ∧
  ∀ i j, i < s.params.nsess → j < s.params.nsess →
    (s.session i).valid = true → (s.session j).valid = true → i = j

end Sys2Proof.Machine
end

