-- ==== Sys2Proof/Certificates/Slice0/Obligations.lean ====
section
/-! DEFINITION. The statements for the provers. `s.consumed` is `s` with the event of this turn taken
off the schedule; every other field is as in `s`. An equation `t = { s with … }` is a whole frame: every
field not named is as in `s`. -/

open Sys2Proof Sys2Proof.Machine

/-! ## Encoding -/

/-- Decoding what the encoder writes gives the instruction back, for every well-formed instruction
(30_encoding.md R91 to R101). -/
def Obligations.DecodeOfEncodeIsIdentity : Prop :=
  ∀ i : Instr, i.wf = true → decode (encode i) = .ok i

/-- A few words written out from the encoding tables (95_test_vectors.md 2.1, 2.2, 2.5) decode to the
instructions they stand for. -/
def Obligations.SpecWordsDecode : Prop :=
  decode (.risc [0x80000000#32]) = .ok .sync ∧
  decode (.risc [0x11010008#32, 0x00010308#32]) = .ok (.write true 0b01 8 0x00010308) ∧
  decode (.risc [0x10030008#32, 0x00010708#32]) = .ok (.write false 0b11 8 0x00010708) ∧
  decode (.risc [0x70000000#32, 0x00001004#32]) = .ok (.jump 0x00001004) ∧
  decode (.command 0x01000001000000000000000000000000#128) = .ok (.openSession 1) ∧
  decode (.command 0x02800001000000200000000090000200#128) =
    .ok (.read true 1 32 0x90000200) ∧
  decode (.command 0x03000001000000000000000000000000#128) = .ok (.closeSession 1) ∧
  decode (.command 0x0480FFFF12345678000000000000BEEF#128) = .ok (.generate 0xFFFF)

/-- What any two RISC words decode to: `OPCODE` is bits [31:28], `IRQ` bit 24, `CC` bits [17:16], `BC`
bits [11:0] of word 0; every other bit of word 0 is ignored; the three illegal cases give no
instruction (30_encoding.md R91, R92, R96, R98). -/
def Obligations.RiscWordsDecodeByTheirFields : Prop :=
  ∀ w0 w1 : Word, (decode (.risc [w0, w1])).toOption =
    if w0.toNat / 2 ^ 28 = 0x8 then some .sync
    else if w0.toNat / 2 ^ 28 = 0x1 then
      if w0.toNat / 2 ^ 16 % 4 = 2 then none
      else some (.write (decide (w0.toNat / 2 ^ 24 % 2 = 1)) (BitVec.ofNat 2 (w0.toNat / 2 ^ 16))
        (BitVec.ofNat 12 w0.toNat) w1)
    else if w0.toNat / 2 ^ 28 = 0x7 then if w1.toNat % 4 = 0 then some (.jump w1) else none
    else none

/-! ## The step -/

/-- Where the producer is enabled and idle and the bytes at `RPC`, eight of them or four, decode to
`i`, the step is `exec` of `i` (40_risc_program.md R121). -/
def Obligations.StepRunsTheFetchedInstruction : Prop :=
  ∀ (s : State) (i : Instr) (rest : List Byte) (n : Nat),
    s.nextEvent = .producer → s.riscErr = false → s.pw.active = false → s.run = true →
    s.rpc.toNat % 4 = 0 → n = 4 ∨ n = 8 → s.inProgram s.rpc.toNat n = true →
    decodeBytes (s.physBytes s.rpc.toNat n) = .ok (i, rest) →
    step s = exec i s.consumed

/-- Where the host sends a command word that decodes to `i`, the step is `exec` of `i`
(30_encoding.md R108). -/
def Obligations.StepRunsTheReceivedCommand : Prop :=
  ∀ (s : State) (w : CmdWord) (i : Instr),
    s.nextEvent = .command w → decodeCommand w = .ok i → step s = exec i s.consumed

/-- A command word with an `OPC` outside `0x01 .. 0x04` is answered `REFUSED` with reason 1, and one
with a legal `OPC` and `RSV != 0` with reason 2; no state of the block changes (30_encoding.md R105,
checks 1 and 2). -/
def Obligations.MalformedCommandsAreRefused : Prop :=
  ∀ (s : State) (w : CmdWord), s.nextEvent = .command w →
    (w.toNat / 2 ^ 120 = 0 ∨ 4 < w.toNat / 2 ^ 120 →
      step s = .next { s.consumed with
        responses := responseWord .refused (sidField w) 1 :: s.responses }) ∧
    (1 ≤ w.toNat / 2 ^ 120 ∧ w.toNat / 2 ^ 120 ≤ 4 ∧ w.toNat / 2 ^ 112 % 2 ^ 7 ≠ 0 →
      step s = .next { s.consumed with
        responses := responseWord .refused (sidField w) 2 :: s.responses })

/-- An enabled producer with nothing in flight raises `RiscError` exactly on the six causes of
60_exceptions.md R243, and then only `RISC_ERR` is written; without a cause it executes the
instruction at `RPC`. -/
def Obligations.RiscErrorExactlyOnItsCauses : Prop :=
  ∀ s : State, s.nextEvent = .producer → s.riscErr = false → s.pw.active = false → s.run = true →
    if s.rpc.toNat % 4 ≠ 0 ∨ s.inProgram s.rpc.toNat 4 = false ∨
        (opcodeField (s.wordAt s.rpc.toNat) ≠ 0x1 ∧ opcodeField (s.wordAt s.rpc.toNat) ≠ 0x7 ∧
          opcodeField (s.wordAt s.rpc.toNat) ≠ 0x8) ∨
        (opcodeField (s.wordAt s.rpc.toNat) ≠ 0x8 ∧ s.inProgram (s.rpc.toNat + 4) 4 = false) ∨
        (opcodeField (s.wordAt s.rpc.toNat) = 0x1 ∧ ccField (s.wordAt s.rpc.toNat) = 0b10) ∨
        (opcodeField (s.wordAt s.rpc.toNat) = 0x7 ∧ (s.wordAt (s.rpc.toNat + 4)).toNat % 4 ≠ 0)
    then step s = .next { s.consumed with riscErr := true }
    else ∃ i, s.fetch = .ok i ∧ step s = exec i s.consumed

/-- `RISC_ERR` is sticky: no step but reset clears it, and while it is 1 the producer's turn changes
nothing (10_state.md R25; 40_risc_program.md R120: it has no step). That the turn of an agent without a step
passes is the model's choice (log 15). -/
def Obligations.RiscErrorLastsUntilReset : Prop :=
  ∀ s : State, s.riscErr = true →
    (∀ t, step s = .next t → s.nextEvent ≠ .reset → t.riscErr = true) ∧
    (s.nextEvent = .producer → step s = .next s.consumed)

/-! ## The RISC instructions -/

/-- `SYNC` advances `RPC` by 4, without wrapping at `2^32`, and changes nothing else
(40_risc_program.md R123; 10_state.md R21). -/
def Obligations.SyncAdvancesRpcOnly : Prop :=
  ∀ s : State, exec .sync s = .next { s with rpc := s.rpc + 4 } ∧
    (s.rpc.toNat ≤ 2 ^ 32 → (s.rpc + 4).toNat = s.rpc.toNat + 4)

/-- `WRITE` puts its transfer in flight and advances `RPC` by 8; no byte moves and nothing else changes.
With counter control `0b10` it sets `RISC_ERR` and changes nothing else (40_risc_program.md R124). -/
def Obligations.WriteIssuesItsTransfer : Prop :=
  ∀ (irq : Bool) (cc : BitVec 2) (bc : BitVec 12) (addr : Word) (s : State),
    if cc = 0b10#2 then exec (.write irq cc bc addr) s = .next { s with riscErr := true }
    else ∃ t, exec (.write irq cc bc addr) s = .next t ∧
      t.pw.active = true ∧ t.pw.addr.toNat = addr.toNat ∧ t.pw.left = bc ∧ t.pw.cc = cc ∧
      t.pw.irq = irq ∧ (s.rpc.toNat ≤ 2 ^ 32 → t.rpc.toNat = s.rpc.toNat + 8) ∧
      t = { s with pw := t.pw, rpc := t.rpc } ∧ sameMemory s t

/-- `JUMP` loads `RPC` with its target and changes nothing else; a target that is not a multiple of 4
sets `RISC_ERR` and changes nothing else (40_risc_program.md R127). -/
def Obligations.JumpLoadsRpcOnly : Prop :=
  ∀ (target : Word) (s : State),
    if target.toNat % 4 ≠ 0 then exec (.jump target) s = .next { s with riscErr := true }
    else ∃ t, exec (.jump target) s = .next t ∧ t.rpc.toNat = target.toNat ∧
      t = { s with rpc := t.rpc } ∧ sameMemory s t

/-- A transfer step moves one sample byte to `PW.ADDR`, advances `PW.ADDR` and `SRC_IDX` by 1, counts
`PW.LEFT` down by 1, and changes nothing else; outside every ring page the run is refused
(40_risc_program.md R125; 20_memory.md R66). At `PW.ADDR = 0xFFFFFFFF` the spec does not say what
`PW.ADDR + 1` is: that it does not wrap there is the model's reading (log 11, DEDUCED). -/
def Obligations.TransferMovesOneSampleByte : Prop :=
  ∀ s : State, s.nextEvent = .producer → s.riscErr = false → s.pw.active = true → s.pw.left ≠ 0 →
    if s.inRing s.pw.addr.toNat = true then
      ∃ t, step s = .next t ∧
        (∀ a, t.physByte a = if a = s.pw.addr.toNat then s.sampleAt s.srcIdx else s.physByte a) ∧
        t.pw.addr.toNat = s.pw.addr.toNat + 1 ∧ t.pw.left.toNat = s.pw.left.toNat - 1 ∧
        t = { s.consumed with
          phys := t.phys
          srcIdx := s.srcIdx + 1
          pw := { s.pw with addr := t.pw.addr, left := t.pw.left } }
    else step s = .refused .outsidePhys

/-- The completion step idles the transfer, updates `GPCNT` as `CC` says and requests the interrupt if
`IRQ` says so, and changes nothing else (40_risc_program.md R126). -/
def Obligations.CompletionCountsAndRequests : Prop :=
  ∀ s : State, s.nextEvent = .producer → s.riscErr = false → s.pw.active = true → s.pw.left = 0 →
    s.pw.cc ≠ 0b10#2 →
    ∃ t, step s = .next t ∧
      t.gpcnt.toNat = (if s.pw.cc = 0b01#2 then (s.gpcnt.toNat + 1) % 2 ^ 32
        else if s.pw.cc = 0b11#2 then 0 else s.gpcnt.toNat) ∧
      t.intstat = (if s.pw.irq then true else s.intstat) ∧
      t = { s.consumed with
        pw := { s.pw with active := false }, gpcnt := t.gpcnt, intstat := t.intstat } ∧
      sameMemory s t

/-- A `WRITE` in flight runs to its completion, with the producer stopped or not: its bytes are the next
sample bytes at ascending addresses, every other byte of PHYS stands, then the counter and the interrupt
request are updated; nothing else changes (40_risc_program.md R120, R125, R126;
44_lifecycle_config.md R222). -/
def Obligations.WriteInFlightRunsToCompletion : Prop :=
  ∀ (s : State) (n : Nat) (rest : List Event), s.riscErr = false → s.pw.active = true →
    s.pw.left.toNat = n → s.pw.cc ≠ 0b10#2 →
    (∀ k, k < n → s.inRing (s.pw.addr.toNat + k) = true) →
    s.schedule = List.replicate (n + 1) .producer ++ rest →
    ∃ t : State, core.run (n + 1) s = .next t ∧
      (∀ k, k < n → t.physByte (s.pw.addr.toNat + k) = s.sampleAt (s.srcIdx + k)) ∧
      (∀ a, a < s.pw.addr.toNat ∨ s.pw.addr.toNat + n ≤ a → t.physByte a = s.physByte a) ∧
      t.gpcnt.toNat = (if s.pw.cc = 0b01#2 then (s.gpcnt.toNat + 1) % 2 ^ 32
        else if s.pw.cc = 0b11#2 then 0 else s.gpcnt.toNat) ∧
      t.intstat = (if s.pw.irq then true else s.intstat) ∧
      t = { s with
        phys := t.phys, srcIdx := s.srcIdx + n, gpcnt := t.gpcnt, intstat := t.intstat
        pw := { s.pw with active := false, addr := t.pw.addr, left := 0 }
        schedule := rest, turn := s.turn + (n + 1) }

/-! ## The generator -/

/-- `GENERATE` zeroes the whole program region and writes the image into it, and responds with the
number of instructions; nothing else changes. It executes whenever the producer cannot step and the
region lies in PHYS (41_generator.md R141, R146; the second condition is the model's choice, log 12). -/
def Obligations.GenerateWritesTheImage : Prop :=
  ∀ (s : State) (sid : Slot), s.params.valid → s.producerEnabled = false →
    s.progBase.toNat + progSize s.params ≤ 2 ^ 32 →
    ∃ t, exec (.generate sid) s = .next t ∧
      (∀ k w, (imageWords s)[k]? = some w → t.wordAt (s.progBase.toNat + 4 * k) = w) ∧
      (∀ a, 4 * (imageWords s).length ≤ a → a < progSize s.params →
        t.physByte (s.progBase.toNat + a) = 0) ∧
      (∀ a, a < s.progBase.toNat ∨ s.progBase.toNat + progSize s.params ≤ a →
        t.physByte a = s.physByte a) ∧
      (∀ a, t.dstByte a = s.dstByte a) ∧
      t = { s with
        phys := t.phys
        responses := responseWord .done sid (BitVec.ofNat 32 (2 * s.params.pageCount + 2)) ::
          s.responses }

/-- The image word by word (41_generator.md R142 to R145), and its number of instructions (R146). -/
def Obligations.ImageIsTheTableOfWords : Prop :=
  ∀ s : State, s.params.valid →
    (programOf s).length = 2 * s.params.pageCount + 2 ∧
    (imageWords s).length = 4 * s.params.pageCount + 3 ∧
    (imageWords s)[0]? = some 0x80000000#32 ∧
    (∀ i, i < s.params.pageCount →
      (imageWords s)[1 + 4 * i]? = some (BitVec.ofNat 32
        (0x10000000 + (if (2 * i + 1) % 512 = 0 then 2 ^ 24 else 0) + s.params.pageSize / 2)) ∧
      (imageWords s)[2 + 4 * i]? = some (s.page i) ∧
      (imageWords s)[3 + 4 * i]? = some (BitVec.ofNat 32
        (0x10000000 + (if (2 * i + 2) % 512 = 0 then 2 ^ 24 else 0) +
          (if i < s.params.pageCount - 1 then 2 ^ 16 else 3 * 2 ^ 16) + s.params.pageSize / 2)) ∧
      (imageWords s)[4 + 4 * i]? =
        some (BitVec.ofNat 32 ((s.page i).toNat + s.params.pageSize / 2))) ∧
    (imageWords s)[1 + 4 * s.params.pageCount]? = some 0x70000000#32 ∧
    (imageWords s)[2 + 4 * s.params.pageCount]? = some (s.progBase + 4)

/-- While the producer can step, a `GENERATE` is a run the spec gives no meaning
(41_generator.md R147; 93_implementation_defined.md U7). -/
def Obligations.GenerateWhileRunningIsRefused : Prop :=
  ∀ (s : State) (sid : Slot), s.riscErr = false → s.pw.active = true ∨ s.run = true →
    exec (.generate sid) s = .refused .generateWhileRunning

/-! ## The session commands -/

/-- `OPEN` of a closed slot takes the snapshot `(GPCNT - 1) mod PAGE_COUNT`, zeroes `POS`, opens the
slot, enables the interrupt and responds with the snapshot; nothing else changes
(43_session_commands.md R181). -/
def Obligations.OpenTakesTheSnapshot : Prop :=
  ∀ (s : State) (sid : Slot), ShapeInv s → sid.toNat < s.params.nsess →
    (s.session sid.toNat).valid = false →
    ∃ t ip, exec (.openSession sid) s = .next t ∧
      (ip.toNat : Int) = ((s.gpcnt.toNat : Int) - 1) % (s.params.pageCount : Int) ∧
      t.session sid.toNat = { valid := true, pos := 0, initialPage := ip } ∧
      (∀ j, j ≠ sid.toNat → t.session j = s.session j) ∧
      t = { s with
        sess := t.sess
        intmsk := true
        responses := responseWord .done sid ip :: s.responses } ∧
      sameMemory s t

/-- `CLOSE` of an open slot with no `READ` in progress closes it, disables the interrupt whatever other
slots are open, and responds 0; nothing else changes but the closed slot's own registers, which become
unspecified (43_session_commands.md R183). -/
def Obligations.CloseReleasesTheSlot : Prop :=
  ∀ (s : State) (sid : Slot), ShapeInv s → sid.toNat < s.params.nsess →
    (s.session sid.toNat).valid = true → (s.engine sid.toNat).phase = .idle →
    ∃ t, exec (.closeSession sid) s = .next t ∧
      (t.session sid.toNat).valid = false ∧
      (∀ j, j ≠ sid.toNat → t.session j = s.session j) ∧
      t = { s with
        sess := t.sess
        intmsk := false
        responses := responseWord .done sid 0 :: s.responses
        freeUses := t.freeUses } ∧
      sameMemory s t

/-- An accepted `READ` latches its operands, the target page of `POS` and the last completed page; a
caught-up non-blocking call is answered with 0 bytes at once and stays idle, every other call enters
`LOOP`; `POS` and everything else stay (43_session_commands.md R186). That the engine's other fields stay
while it is idle is the model's choice (log 21). -/
def Obligations.ReadAcceptLatchesAndStarts : Prop :=
  ∀ (s : State) (nb : Bool) (sid : Slot) (len : Word) (dst : Long), ShapeInv s →
    sid.toNat < s.params.nsess → (s.session sid.toNat).valid = true →
    (s.engine sid.toNat).phase = .idle →
    (s.session sid.toNat).pos.toNat + len.toNat < 2 ^ 64 → dst.toNat + len.toNat ≤ 2 ^ 64 →
    ∃ t tgt hwp, exec (.read nb sid len dst) s = .next t ∧
      tgt.toNat = ((s.session sid.toNat).initialPage.toNat +
        (s.session sid.toNat).pos.toNat % (s.params.pageCount * s.params.pageSize) /
          s.params.pageSize) % s.params.pageCount ∧
      hwp.toNat = (if s.gpcnt.toNat = 0 then s.params.pageCount - 1 else s.gpcnt.toNat - 1) ∧
      t.engine sid.toNat = { s.engine sid.toNat with
        nb := nb, rem := len, dptr := dst, rv := 0, tgt := tgt, hwp := hwp
        phase := if tgt = hwp ∧ nb = true then .idle else .loop } ∧
      (∀ j, j ≠ sid.toNat → t.engine j = s.engine j) ∧
      t = { s with
        rd := t.rd
        responses := if tgt = hwp ∧ nb = true then responseWord .done sid 0 :: s.responses
          else s.responses } ∧
      sameMemory s t

/-- `OPEN`, `CLOSE` and `READ` are refused by the first failing check, in the order of
30_encoding.md R105 (checks 3 to 8), with its reason code, and a refused command changes no state. -/
def Obligations.RefusalsFollowTheCheckOrder : Prop :=
  ∀ (s : State) (sid : Slot),
    (s.params.nsess ≤ sid.toNat →
      exec (.openSession sid) s =
        .next { s with responses := responseWord .refused sid 3 :: s.responses } ∧
      exec (.closeSession sid) s =
        .next { s with responses := responseWord .refused sid 3 :: s.responses } ∧
      ∀ nb len dst, exec (.read nb sid len dst) s =
        .next { s with responses := responseWord .refused sid 3 :: s.responses }) ∧
    (sid.toNat < s.params.nsess → (s.session sid.toNat).valid = false →
      exec (.closeSession sid) s =
        .next { s with responses := responseWord .refused sid 4 :: s.responses } ∧
      ∀ nb len dst, exec (.read nb sid len dst) s =
        .next { s with responses := responseWord .refused sid 4 :: s.responses }) ∧
    (sid.toNat < s.params.nsess → (s.session sid.toNat).valid = true →
      exec (.openSession sid) s =
        .next { s with responses := responseWord .refused sid 5 :: s.responses } ∧
      ((s.engine sid.toNat).phase ≠ .idle →
        exec (.closeSession sid) s =
          .next { s with responses := responseWord .refused sid 6 :: s.responses } ∧
        ∀ nb len dst, exec (.read nb sid len dst) s =
          .next { s with responses := responseWord .refused sid 6 :: s.responses }) ∧
      ((s.engine sid.toNat).phase = .idle → ∀ nb len dst,
        if 2 ^ 64 ≤ (s.session sid.toNat).pos.toNat + len.toNat then
          exec (.read nb sid len dst) s =
            .next { s with responses := responseWord .refused sid 7 :: s.responses }
        else 2 ^ 64 < dst.toNat + len.toNat →
          exec (.read nb sid len dst) s =
            .next { s with responses := responseWord .refused sid 8 :: s.responses }))

/-- A response word holds its status in bits [63:62], 0 in [61:48], the slot in [47:32] and the count
in [31:0]; status 3 is none of the three (30_encoding.md R106). -/
def Obligations.ResponseWordLayout : Prop :=
  ∀ (sid : Slot) (count : Word) (st : Status),
    (responseWord st sid count).toNat =
      (match st with | .done => 0 | .fault => 1 | .refused => 2) * 2 ^ 62 +
        sid.toNat * 2 ^ 32 + count.toNat

/-- A non-blocking `READ` straight after an `OPEN`. With the counter at most `PAGE_COUNT` it delivers
nothing: a fresh session is caught up, an inference of the spec's own (43_session_commands.md R182;
42_ring_arithmetic.md R162, R168). With a larger counter, which only a hand-written program produces, the
call starts its engine on a page that counts as readable: there the spec's inferences R182 and R161 disagree
and the model follows the formulas (log 22). -/
def Obligations.FreshSessionIsCaughtUp : Prop :=
  ∀ (s : State) (sid : Slot) (len : Word) (dst : Long), ShapeInv s →
    sid.toNat < s.params.nsess →
    (s.session sid.toNat).valid = false → (s.engine sid.toNat).phase = .idle →
    dst.toNat + len.toNat ≤ 2 ^ 64 →
    ∃ t u, exec (.openSession sid) s = .next t ∧ exec (.read true sid len dst) t = .next u ∧
      u.session sid.toNat = t.session sid.toNat ∧ sameMemory s u ∧
      if s.gpcnt.toNat ≤ s.params.pageCount then
        u.responses = responseWord .done sid 0 :: t.responses ∧ (u.engine sid.toNat).phase = .idle
      else
        u.responses = t.responses ∧ (u.engine sid.toNat).phase = .loop ∧
        (u.engine sid.toNat).tgt ≠ (u.engine sid.toNat).hwp

/-! ## The read engine -/

/-- The `LOOP` step: a satisfied request is answered with its count; a readable target page starts a
chunk of `min(Z - POS mod Z, REM)` bytes; a caught-up non-blocking call is answered short; a caught-up
blocking call goes to poll. The comparison is with the latched `HWP`; nothing else changes
(43_session_commands.md R188). That an engine which becomes idle keeps its other fields is the model's
choice (log 21). -/
def Obligations.LoopStepDecides : Prop :=
  ∀ (s : State) (i : Nat), s.nextEvent = .engine i → i < s.params.nsess →
    (s.engine i).phase = .loop →
    step s =
      if (s.engine i).rem = 0 ∨ ((s.engine i).tgt = (s.engine i).hwp ∧ (s.engine i).nb = true) then
        .next { s.consumed with
          rd := s.rd.set i { s.engine i with phase := .idle }
          responses := responseWord .done (BitVec.ofNat 16 i) (s.engine i).rv :: s.responses }
      else if (s.engine i).tgt ≠ (s.engine i).hwp then
        .next { s.consumed with
          rd := s.rd.set i { s.engine i with
            clen := min (s.params.pageSize - (s.session i).pos.toNat % s.params.pageSize)
              (s.engine i).rem.toNat
            cidx := 0
            phase := .cread } }
      else .next { s.consumed with rd := s.rd.set i { s.engine i with phase := .poll } }

/-- The `POLL` step samples the counter anew and returns to `LOOP`; nothing else changes
(43_session_commands.md R194). -/
def Obligations.PollSamplesTheCounter : Prop :=
  ∀ (s : State) (i : Nat), ShapeInv s → s.nextEvent = .engine i → i < s.params.nsess →
    (s.engine i).phase = .poll →
    ∃ t hwp, step s = .next t ∧
      hwp.toNat = (if s.gpcnt.toNat = 0 then s.params.pageCount - 1 else s.gpcnt.toNat - 1) ∧
      t.engine i = { s.engine i with hwp := hwp, phase := .loop } ∧
      (∀ j, j ≠ i → t.engine j = s.engine j) ∧
      t = { s.consumed with rd := t.rd } ∧ sameMemory s t

/-- The `CREAD` step stages the ring byte of the target page at the offset of `POS`, one byte a step, and
after the last one goes on to the delivery without an access; nothing else changes
(43_session_commands.md R189). R189 names `CIDX == CLEN` for the way on; that it is taken at every
`CIDX >= CLEN` is the model's choice (log 18), the same in every state of the invariant. -/
def Obligations.StagingStepReadsOneByte : Prop :=
  ∀ (s : State) (i : Nat), ShapeInv s → s.nextEvent = .engine i → i < s.params.nsess →
    (s.engine i).phase = .cread → (s.engine i).tgt.toNat < s.params.pageCount →
    (s.page (s.engine i).tgt.toNat).toNat + s.params.pageSize ≤ 2 ^ 32 →
    (s.session i).pos.toNat % s.params.pageSize + (s.engine i).clen ≤ s.params.pageSize →
    step s = .next { s.consumed with
      rd := s.rd.set i (
        if (s.engine i).cidx < (s.engine i).clen then
          { s.engine i with
            cb := (s.engine i).cb.set (s.engine i).cidx (s.physByte
              ((s.page (s.engine i).tgt.toNat).toNat +
                (s.session i).pos.toNat % s.params.pageSize + (s.engine i).cidx))
            cidx := (s.engine i).cidx + 1 }
        else { s.engine i with phase := .cdeliver }) }

/-- A `CDELIVER` step the caller admits puts the whole chunk into the caller's buffer and goes on to the
zeroing; every other byte and everything else stands (43_session_commands.md R190). -/
def Obligations.DeliveryWritesTheWholeChunk : Prop :=
  ∀ (s : State) (i : Nat), ShapeInv s → s.nextEvent = .engine i → i < s.params.nsess →
    (s.engine i).phase = .cdeliver → s.admits (s.engine i).dptr.toNat (s.engine i).clen = true →
    ∃ t, step s = .next t ∧
      (∀ k, k < (s.engine i).clen →
        t.dstByte ((s.engine i).dptr.toNat + k) = some ((s.engine i).cb.getD k 0)) ∧
      (∀ a, a < (s.engine i).dptr.toNat ∨ (s.engine i).dptr.toNat + (s.engine i).clen ≤ a →
        t.dstByte a = s.dstByte a) ∧
      t = { s.consumed with
        dst := t.dst
        rd := s.rd.set i { s.engine i with cidx := 0, phase := .czero } }

/-- A `CZERO` step before the last byte sets one copied ring byte to 0, and leaves every other byte and
everything else alone (43_session_commands.md R191). -/
def Obligations.ZeroStepClearsOneByte : Prop :=
  ∀ (s : State) (i : Nat), ShapeInv s → s.nextEvent = .engine i → i < s.params.nsess →
    (s.engine i).phase = .czero → (s.engine i).tgt.toNat < s.params.pageCount →
    (s.page (s.engine i).tgt.toNat).toNat + s.params.pageSize ≤ 2 ^ 32 →
    (s.session i).pos.toNat % s.params.pageSize + (s.engine i).clen ≤ s.params.pageSize →
    (s.engine i).cidx < (s.engine i).clen →
    ∃ t, step s = .next t ∧
      (∀ a, t.physByte a =
        if a = (s.page (s.engine i).tgt.toNat).toNat +
          (s.session i).pos.toNat % s.params.pageSize + (s.engine i).cidx then 0 else s.physByte a) ∧
      t = { s.consumed with
        phys := t.phys
        rd := s.rd.set i { s.engine i with cidx := (s.engine i).cidx + 1 } }

/-- A delivery the caller's buffer does not admit ends the `READ`: the response is `FAULT` with count
0, the engine is idle, `POS` and every ring byte stand, DST bytes outside the chunk's range stand, and
nothing else of the block changes (43_session_commands.md R195; 60_exceptions.md R241). That the idle
engine keeps its other fields is the model's choice (log 21). -/
def Obligations.CallerBufferFaultEndsTheRead : Prop :=
  ∀ (s : State) (i : Nat), ShapeInv s → s.nextEvent = .engine i → i < s.params.nsess →
    (s.engine i).phase = .cdeliver → s.admits (s.engine i).dptr.toNat (s.engine i).clen = false →
    ∃ t, step s = .next t ∧
      t.engine i = { s.engine i with phase := .idle } ∧
      (∀ j, j ≠ i → t.engine j = s.engine j) ∧
      (∀ j, t.session j = s.session j) ∧
      (∀ a, t.physByte a = s.physByte a) ∧
      (∀ a, a < (s.engine i).dptr.toNat ∨ (s.engine i).dptr.toNat + (s.engine i).clen ≤ a →
        t.dstByte a = s.dstByte a) ∧
      t = { s.consumed with
        dst := t.dst
        freeUses := t.freeUses
        rd := t.rd
        responses := responseWord .fault (BitVec.ofNat 16 i) 0 :: s.responses }

/-- The commit at the end of a chunk: `POS`, `DPTR` and `RV` advance by the chunk, `REM` falls by it,
the target page is that of the new `POS`, the engine returns to `LOOP`, `HWP` is not refreshed, and no
other field of the session, of the engine or of the state changes. None of the sums overflows, but that
`DPTR` at the very end of DST is stored as 0, and then `REM` is 0 (43_session_commands.md R192). -/
def Obligations.CommitAdvancesByTheChunk : Prop :=
  ∀ (s : State) (i : Nat), s.Inv → s.nextEvent = .engine i → i < s.params.nsess →
    (s.engine i).phase = .czero → (s.engine i).cidx = (s.engine i).clen →
    ∃ (t : State) (pos dptr : Long) (rem rv tgt : Word), step s = .next t ∧
      pos.toNat = (s.session i).pos.toNat + (s.engine i).clen ∧
      (s.engine i).rem.toNat = rem.toNat + (s.engine i).clen ∧
      (s.engine i).dptr.toNat + (s.engine i).clen ≤ 2 ^ 64 ∧
      dptr.toNat = ((s.engine i).dptr.toNat + (s.engine i).clen) % 2 ^ 64 ∧
      ((s.engine i).dptr.toNat + (s.engine i).clen = 2 ^ 64 → rem = 0) ∧
      rv.toNat = (s.engine i).rv.toNat + (s.engine i).clen ∧
      tgt.toNat = (pagemap s.params (s.session i).initialPage.toNat
        ((s.session i).pos.toNat + (s.engine i).clen)).1 ∧
      t.session i = { s.session i with pos := pos } ∧
      t.engine i = { s.engine i with
        rem := rem, dptr := dptr, rv := rv, tgt := tgt, phase := .loop } ∧
      (∀ j, j ≠ i → t.session j = s.session j ∧ t.engine j = s.engine j) ∧
      t = { s.consumed with sess := t.sess, rd := t.rd } ∧ sameMemory s t

/-- The round trip of one chunk, from its first staging step to its commit, with no other agent
stepping between: the caller receives the ring bytes bit for bit, the bytes copied are 0 in the ring
afterwards, every other byte of PHYS and DST stands, `POS` has advanced by the chunk, and the slot and its
engine are left as the commit leaves them: `VALID`, `INITIAL_PAGE`, `NB` and `HWP` as before, `REM`,
`DPTR`, `RV` and `TGT` moved on, the chunk in the staging buffer (43_session_commands.md R189 to R192,
R199 (2)). That the steps of a chunk may be taken as one is the spec's own inference (R198). -/
def Obligations.ChunkRoundTrip : Prop :=
  ∀ (s : State) (i base : Nat) (rest : List Event), s.Inv → i < s.params.nsess →
    (s.engine i).phase = .cread → (s.engine i).cidx = 0 →
    base = (s.page (s.engine i).tgt.toNat).toNat + (s.session i).pos.toNat % s.params.pageSize →
    (s.page (s.engine i).tgt.toNat).toNat + s.params.pageSize ≤ 2 ^ 32 →
    s.admits (s.engine i).dptr.toNat (s.engine i).clen = true →
    s.schedule = List.replicate (2 * (s.engine i).clen + 3) (.engine i) ++ rest →
    ∃ (t : State) (pos dptr : Long) (rem rv tgt : Word),
      core.run (2 * (s.engine i).clen + 3) s = .next t ∧
      (∀ k, k < (s.engine i).clen →
        t.dstByte ((s.engine i).dptr.toNat + k) = some (s.physByte (base + k)) ∧
        t.physByte (base + k) = 0) ∧
      (∀ a, a < base ∨ base + (s.engine i).clen ≤ a → t.physByte a = s.physByte a) ∧
      (∀ a, a < (s.engine i).dptr.toNat ∨ (s.engine i).dptr.toNat + (s.engine i).clen ≤ a →
        t.dstByte a = s.dstByte a) ∧
      pos.toNat = (s.session i).pos.toNat + (s.engine i).clen ∧
      (s.engine i).rem.toNat = rem.toNat + (s.engine i).clen ∧
      dptr.toNat = ((s.engine i).dptr.toNat + (s.engine i).clen) % 2 ^ 64 ∧
      rv.toNat = (s.engine i).rv.toNat + (s.engine i).clen ∧
      tgt.toNat = (pagemap s.params (s.session i).initialPage.toNat
        ((s.session i).pos.toNat + (s.engine i).clen)).1 ∧
      t.session i = { s.session i with pos := pos } ∧
      t.engine i = { s.engine i with
        phase := .loop, rem := rem, dptr := dptr, rv := rv, tgt := tgt
        cidx := (s.engine i).clen
        cb := s.physBytes base (s.engine i).clen ++ (s.engine i).cb.drop (s.engine i).clen } ∧
      (∀ j, j ≠ i → t.session j = s.session j ∧ t.engine j = s.engine j) ∧
      t = { s with
        phys := t.phys, dst := t.dst, sess := t.sess, rd := t.rd
        schedule := rest, turn := s.turn + (2 * (s.engine i).clen + 3) }

/-- A caught-up blocking `READ` spins as long as only its engine steps: it alternates between `LOOP`
and `POLL`, is never answered, and its slot stays busy (43_session_commands.md R196;
70_reset_and_hazards.md R287). -/
def Obligations.BlockingReadSpinsWhileNothingArrives : Prop :=
  ∀ (n : Nat) (s : State) (i : Nat) (rest : List Event), ShapeInv s → i < s.params.nsess →
    (s.engine i).phase = .loop → (s.engine i).rem ≠ 0 → (s.engine i).nb = false →
    (s.engine i).tgt = (s.engine i).hwp → s.hwPage = (s.engine i).hwp →
    s.schedule = List.replicate (2 * n) (.engine i) ++ rest →
    core.run (2 * n) s = .next { s with schedule := rest, turn := s.turn + 2 * n }

/-! ## Registers, the interrupt and reset -/

/-- The start action, on a legal memory map: `RPC` is loaded from `PROG_BASE`, `GPCNT` is 0, a `WRITE`
in flight is dropped, `CTRL.RUN` is 1, and nothing else changes (44_lifecycle_config.md R221). That the
map is checked here is the model's choice (log 12). -/
def Obligations.StartLoadsRpcAndClearsTheCounter : Prop :=
  ∀ (s : State) (v : Word), s.nextEvent = .regWrite 0x00 v → v.toNat % 2 = 1 → s.run = false →
    s.mapOk = true →
    ∃ t, step s = .next t ∧ t.rpc.toNat = s.progBase.toNat ∧
      t = { s.consumed with
        rpc := t.rpc, gpcnt := 0, pw := { s.pw with active := false }, run := true } ∧
      sameMemory s t

/-- The stop action clears `CTRL.RUN` and nothing else, so a `WRITE` in flight stays in flight; and a
write of `CTRL` that repeats `CTRL.RUN` in bit 0 changes nothing (44_lifecycle_config.md R222 and, its
own inference, R223). -/
def Obligations.StopClearsRunOnly : Prop :=
  ∀ (s : State) (v : Word), s.nextEvent = .regWrite 0x00 v →
    (v.toNat % 2 = 0 → step s = .next { s.consumed with run := false }) ∧
    (v.toNat % 2 = (if s.run then 1 else 0) → step s = .next s.consumed)

/-- Writes of `INTMSK`, `INTSTAT` and `FMT`: `INTMSK.DRDY` takes bit 0; bit 0 clears `INTSTAT.DRDY` and
0 leaves it; `FMT` is 1 exactly when the whole word is 1. Nothing else changes
(44_lifecycle_config.md R225, R226, R228). -/
def Obligations.InterruptAndFormatWrites : Prop :=
  ∀ (s : State) (v : Word),
    (s.nextEvent = .regWrite 0x0C v →
      step s = .next { s.consumed with intmsk := decide (v.toNat % 2 = 1) }) ∧
    (s.nextEvent = .regWrite 0x10 v →
      step s = .next { s.consumed with intstat := s.intstat && decide (v.toNat % 2 = 0) }) ∧
    (s.nextEvent = .regWrite 0x14 v →
      step s = .next { s.consumed with fmt := decide (v.toNat = 1) })

/-- Writes to `STATUS`, `GPCNT` and `BUFSZ` are accepted and ignored (44_lifecycle_config.md R231). -/
def Obligations.ReadOnlyRegistersIgnoreWrites : Prop :=
  ∀ (s : State) (off : Nat) (v : Word), off = 0x04 ∨ off = 0x08 ∨ off = 0x18 →
    s.nextEvent = .regWrite off v → step s = .next s.consumed

/-- Address-register writes outside a live block: `PROG_BASE` takes the value with bits [1:0] forced to
0, `PAGE_ADDR[i]` the value, and nothing else changes (44_lifecycle_config.md R229). -/
def Obligations.AddressRegisterWrites : Prop :=
  ∀ (s : State) (v : Word), ShapeInv s → s.live = false →
    (s.nextEvent = .regWrite 0x1C v →
      ∃ t, step s = .next t ∧ t.progBase.toNat = v.toNat - v.toNat % 4 ∧
        t = { s.consumed with progBaseHi := t.progBaseHi } ∧ sameMemory s t) ∧
    (∀ i, i < s.params.pageCount → s.nextEvent = .regWrite (0x100 + 4 * i) v →
      ∃ t, step s = .next t ∧ t.page i = v ∧ (∀ j, j ≠ i → t.page j = s.page j) ∧
        t = { s.consumed with pageAddr := t.pageAddr } ∧ sameMemory s t)

/-- While the block is live no step but reset changes an address register: the spec asks it of the host
(20_memory.md R64 (d); 70_reset_and_hazards.md R282), and that a write which would is refused is the
model's choice (log 12). -/
def Obligations.AddressRegistersAreFrozenWhileLive : Prop :=
  ∀ s t : State, s.live = true → s.nextEvent ≠ .reset → step s = .next t →
    t.progBase = s.progBase ∧ ∀ i, t.page i = s.page i

/-- A register read returns the register's value with reserved bits 0 and changes no register
(44_lifecycle_config.md R230; 10_state.md R36, R37). -/
def Obligations.RegisterReadsReturnTheMap : Prop :=
  ∀ (s : State) (off : Nat) (v : Word), s.nextEvent = .regRead off →
    (off = 0x00 ∧ v.toNat = (if s.run then 1 else 0) ∨
      off = 0x04 ∧ v.toNat = (if s.riscErr then 1 else 0) + (if s.pw.active then 2 else 0) ∨
      off = 0x08 ∧ v = s.gpcnt ∨
      off = 0x0C ∧ v.toNat = (if s.intmsk then 1 else 0) ∨
      off = 0x10 ∧ v.toNat = (if s.intstat then 1 else 0) ∨
      off = 0x14 ∧ v.toNat = (if s.fmt then 1 else 0) ∨
      off = 0x18 ∧ v.toNat = 1 + (if s.fmt then 1 else 0) ∨
      off = 0x1C ∧ v.toNat = 4 * s.progBaseHi.toNat ∨
      ∃ i, i < s.params.pageCount ∧ off = 0x100 + 4 * i ∧ v = s.page i) →
    step s = .next { s.consumed with busReads := v :: s.busReads }

/-- An access at an offset that is not a multiple of 4, or that the map does not hold, is refused by
name (10_state.md R37). -/
def Obligations.OffsetsOffTheMapAreRefused : Prop :=
  ∀ (s : State) (off : Nat) (v : Word),
    off % 4 ≠ 0 ∨ (0x20 ≤ off ∧ off < 0x100) ∨ 0x100 + 4 * s.params.pageCount ≤ off →
    s.nextEvent = .regRead off ∨ s.nextEvent = .regWrite off v →
    step s = .refused .badRegisterOffset

/-- The interrupt wire is high exactly when the request is pending and enabled, and a stale request
drives it as soon as an `OPEN` sets the mask (10_state.md R28; 43_session_commands.md R182). -/
def Obligations.OpenUnmasksAStaleRequest : Prop :=
  ∀ (s : State) (sid : Slot), sid.toNat < s.params.nsess → (s.session sid.toNat).valid = false →
    (s.irqOut = true ↔ s.intstat = true ∧ s.intmsk = true) ∧
    ∃ t, exec (.openSession sid) s = .next t ∧ t.irqOut = s.intstat

/-- The state after reset, as far as the spec gives it a value (10_state.md R42). -/
def Obligations.ResetValuesOfTheSpec : Prop :=
  State.reset.run = false ∧ State.reset.gpcnt = 0 ∧ State.reset.pw.active = false ∧
  State.reset.srcIdx = 0 ∧ State.reset.riscErr = false ∧ State.reset.intstat = false ∧
  State.reset.intmsk = false ∧ State.reset.fmt = false ∧ State.reset.bufsz = 1 ∧
  ∀ i, (State.reset.session i).valid = false ∧ (State.reset.engine i).phase = .idle

/-- The reset input, at any step: every register the spec gives a reset value has it, PHYS and DST are
not written, no response is sent, and afterwards neither the producer nor any read engine has an
enabled step (70_reset_and_hazards.md R270). That the turn of such an agent passes is the model's choice
(log 15). -/
def Obligations.ResetInputQuiescesTheBlock : Prop :=
  ∀ s : State, s.nextEvent = .reset → ∃ t, step s = .next t ∧
    t.run = false ∧ t.gpcnt = 0 ∧ t.pw.active = false ∧ t.srcIdx = 0 ∧ t.riscErr = false ∧
    t.intstat = false ∧ t.intmsk = false ∧ t.fmt = false ∧
    (∀ i, (t.session i).valid = false ∧ (t.engine i).phase = .idle) ∧
    t.phys = s.phys ∧ t.dst = s.dst ∧ t.responses = s.responses ∧ t.params = s.params ∧
    (t.nextEvent = .producer → step t = .next t.consumed) ∧
    ∀ i, t.nextEvent = .engine i → step t = .next t.consumed

/-! ## Ring arithmetic -/

/-- The write-pointer tracker for every raw counter value: `last_completed_page` by cases, and
`initial_page_of` as the Euclidean remainder; the two agree on `[0, P)`, and for a power of two the
latter is what 32-bit wrap-around gives (42_ring_arithmetic.md R160, R162). -/
def Obligations.TrackerFunctionsByCases : Prop :=
  ∀ pageCount raw : Nat, 2 ≤ pageCount → raw < 2 ^ 32 →
    lastCompletedPage pageCount raw = (if raw = 0 then pageCount - 1 else raw - 1) ∧
    (initialPageOf pageCount raw : Int) = ((raw : Int) - 1) % (pageCount : Int) ∧
    initialPageOf pageCount 0 = pageCount - 1 ∧
    (1 ≤ raw ∧ raw ≤ pageCount → initialPageOf pageCount raw = raw - 1) ∧
    (raw < pageCount → initialPageOf pageCount raw = lastCompletedPage pageCount raw) ∧
    (∀ k, k ≤ 32 → pageCount = 2 ^ k →
      initialPageOf pageCount raw = (raw + (2 ^ 32 - 1)) % 2 ^ 32 % pageCount)

/-- The laws (a) to (g) of `pagemap`, which the spec marks as its own inference
(42_ring_arithmetic.md R164). -/
def Obligations.PagemapLaws : Prop :=
  ∀ (p : Params) (ip pos d : Nat), p.valid → ip < p.pageCount →
    ((pagemap p ip pos).1 < p.pageCount ∧ (pagemap p ip pos).2 < p.pageSize) ∧
    pagemap p ip (pos + ringSize p) = pagemap p ip pos ∧
    pagemap p ip 0 = (ip, 0) ∧
    (∀ i, i < p.pageCount → (pagemap p ip (i * p.pageSize)).1 = (ip + i) % p.pageCount) ∧
    ((pagemap p ip pos).2 + d < p.pageSize →
      pagemap p ip (pos + d) = ((pagemap p ip pos).1, (pagemap p ip pos).2 + d)) ∧
    ((pagemap p ip pos).2 + d = p.pageSize →
      pagemap p ip (pos + d) = (((pagemap p ip pos).1 + 1) % p.pageCount, 0)) ∧
    ip + pos % ringSize p / p.pageSize ≤ 2 * p.pageCount - 2

/-- The chunk clamp: between 1 and `PAGE_SIZE` bytes, at most what is requested, and inside one page
(42_ring_arithmetic.md R165). -/
def Obligations.ChunkStaysInOnePage : Prop :=
  ∀ (p : Params) (pos rem : Nat), p.valid → 0 < rem →
    chunkLen p pos rem = min (p.pageSize - pos % p.pageSize) rem ∧
    1 ≤ chunkLen p pos rem ∧ chunkLen p pos rem ≤ p.pageSize ∧
    pos % p.pageSize + chunkLen p pos rem ≤ p.pageSize ∧
    ∀ k, k < chunkLen p pos rem → ∀ ip, pageOf p ip (pos + k) = pageOf p ip pos

/-- With the generated program, where the counter is the number of completed pages modulo
`PAGE_COUNT`, a session that opened at `nc0` completed pages is caught up to the current `hw_page`
exactly when its lag is a multiple of `PAGE_COUNT`: the spec's own inference
(42_ring_arithmetic.md R169). -/
def Obligations.CaughtUpIffLagIsWholeLaps : Prop :=
  ∀ (p : Params) (nc nc0 pos : Nat), p.valid → nc0 ≤ nc →
    (caughtUp (pageOf p (initialPageOf p.pageCount (nc0 % p.pageCount)) pos)
        (lastCompletedPage p.pageCount (nc % p.pageCount)) ↔
      lag p nc nc0 pos % (p.pageCount : Int) = 0)

/-! ## Invariants and whole-machine rules -/

/-- Every step keeps the invariant of the machine: memory in canonical form and inside its spaces,
every indexed register present, `RPC` aligned while the producer may fetch, a legal counter control in
flight, and every `READ` in progress consistent with its session (10_state.md R21, R33, R34;
43_session_commands.md R192). -/
def Obligations.StepKeepsTheInvariant : Prop :=
  ∀ s t : State, s.Inv → step s = .next t → t.Inv

/-- The state after reset meets the invariant. -/
def Obligations.ResetMeetsTheInvariant : Prop := State.reset.Inv

/-- Running the generated program over a legal map: a producer's turn always answers a next state, raises no
`RiscError` and is never refused, `GPCNT` stays the index of the page being filled, and every step
moves on. With byte `k` since the start action next, that byte lands in page `(k div Z) mod P` at offset
`k mod Z` and no other byte of PHYS changes; after the last byte of a cluster the `WRITE` completes;
between `WRITE`s the next one is issued, after the `SYNC` or the `JUMP` where one stands before it, and no
byte changes: the spec's own inferences (10_state.md R41; 60_exceptions.md R244; 40_risc_program.md R128).
A producer that was stopped and has drained has no step (40_risc_program.md R120; 44_lifecycle_config.md
R222); that its turn then passes, answering a next state with nothing changed, is the model's choice
(log 15). -/
def Obligations.GeneratedProgramRunsForEver : Prop :=
  ∀ (s : State) (src0 : Nat), Producing s src0 → s.nextEvent = .producer →
    ∃ t, step s = .next t ∧ Producing t src0 ∧ t.gpcnt.toNat < t.params.pageCount ∧
      (∀ n d k, InFlight s src0 n d → k = n * clusterSize s.params + d →
        if d < clusterSize s.params then
          InFlight t src0 n (d + 1) ∧
          ∀ a, t.physByte a =
            if a = (s.page (k / s.params.pageSize % s.params.pageCount)).toNat + k % s.params.pageSize
            then s.sampleAt (src0 + k) else s.physByte a
        else BetweenWrites t src0 (n + 1) ∧ sameMemory s t) ∧
      (∀ n, BetweenWrites s src0 n → s.run = true → sameMemory s t ∧
        if s.rpc.toNat = s.writeAt (n % (2 * s.params.pageCount)) then InFlight t src0 n 0
        else BetweenWrites t src0 n ∧ t.rpc.toNat = s.writeAt (n % (2 * s.params.pageCount))) ∧
      (s.pw.active = false → s.run = false → t = s.consumed)

/-- While the producer of a generated program can step, no step of any agent but reset disturbs it: not
a command, not a read engine's zeroing, not a register access, not a host store. The image, the map and
the sample origin stand, and a step that is not the producer's own leaves `RPC`, `PW`, `GPCNT` and
`SRC_IDX` as they were. Only a start action while draining begins the program anew, from the sample byte
that is next (10_state.md R41; 20_memory.md R81). For an address register written, for a store of the
host and for `GENERATE` this leans on the refusals of log 12, 13 and 16, the model's choices: such runs
answer no next state. -/
def Obligations.NoAgentDisturbsTheGeneratedProgram : Prop :=
  ∀ (s t : State) (src0 : Nat), Producing s src0 → s.producerEnabled = true →
    s.nextEvent ≠ .reset → step s = .next t →
    if s.run = false ∧ ∃ v : Word, s.nextEvent = .regWrite 0x00 v ∧ v.toNat % 2 = 1 then
      Producing t s.srcIdx ∧ BetweenWrites t s.srcIdx 0 ∧ t.fetch = .ok .sync ∧ t.srcIdx = s.srcIdx
    else Producing t src0 ∧
      (s.nextEvent ≠ .producer →
        t.rpc = s.rpc ∧ t.pw = s.pw ∧ t.gpcnt = s.gpcnt ∧ t.srcIdx = s.srcIdx)

/-- The start action over a generated image begins the program: the next producer step is its `SYNC`
(44_lifecycle_config.md R221; 70_reset_and_hazards.md R273). -/
def Obligations.StartBeginsTheGeneratedProgram : Prop :=
  ∀ (s : State) (v : Word), s.params.valid → s.mapOk = true → s.riscErr = false → s.hasImage →
    s.run = false → s.nextEvent = .regWrite 0x00 v → v.toNat % 2 = 1 →
    ∃ t, step s = .next t ∧ Producing t s.srcIdx ∧ t.fetch = .ok .sync

/-- `GENERATE` puts the image in the program region, where it stays readable word for word
(41_generator.md R141, R142). -/
def Obligations.GenerateMakesTheImage : Prop :=
  ∀ (s t : State) (sid : Slot), s.params.valid → exec (.generate sid) s = .next t → t.hasImage

/-- With the generated program `GPCNT` is the number of second-half `WRITE` completions since the start
action, modulo `PAGE_COUNT`: every step but reset keeps the bookkeeping in agreement with the state, and
the start action begins it, whatever it was: the spec's own inference (10_state.md R41). -/
def Obligations.CounterIsCompletionsModuloPages : Prop :=
  (∀ (s t : State) (src0 : Nat) (g : Ledger), Producing s src0 → s.producerEnabled = true →
    Agrees g s → s.nextEvent ≠ .reset → step s = .next t → Agrees (g.next s t) t) ∧
  ∀ (s t : State) (v : Word) (g : Ledger), s.run = false → s.nextEvent = .regWrite 0x00 v →
    v.toNat % 2 = 1 → step s = .next t → Agrees (g.next s t) t ∧ (g.next s t).nc = 0

/-- A session that opens has lag 0, whatever program the producer runs (42_ring_arithmetic.md R169, its
third sentence). -/
def Obligations.OpenSessionsStartAtLagZero : Prop :=
  ∀ (s t : State) (i : Nat) (g : Ledger), step s = .next t → i < s.params.nsess →
    (s.session i).valid = false → (t.session i).valid = true →
    lag t.params (g.next s t).nc ((g.next s t).nc0.getD i 0) (t.session i).pos.toNat = 0

/-- `GPCNT` is written only by a producer's step that completes a `WRITE`, by the start action, and by
reset (10_state.md R22). -/
def Obligations.CounterHasThreeWriters : Prop :=
  ∀ s t : State, step s = .next t → t.gpcnt ≠ s.gpcnt →
    (s.nextEvent = .producer ∧ s.pw.active = true ∧ s.pw.left = 0 ∧ t.pw.active = false) ∨
    ((∃ v, s.nextEvent = .regWrite 0x00 v) ∧ s.run = false ∧ t.run = true ∧ t.gpcnt = 0) ∨
    (s.nextEvent = .reset ∧ t.gpcnt = 0)

/-- As long as a session stays open its `INITIAL_PAGE` is fixed and its `POS` never moves back; only
its own read engine moves `POS` (10_state.md R33). -/
def Obligations.OpenSessionsOnlyMoveForward : Prop :=
  ∀ (s t : State) (i : Nat), s.Inv → i < s.params.nsess → step s = .next t →
    (s.session i).valid = true → (t.session i).valid = true →
    (t.session i).initialPage = (s.session i).initialPage ∧
    (s.session i).pos.toNat ≤ (t.session i).pos.toNat ∧
    ((t.session i).pos ≠ (s.session i).pos → s.nextEvent = .engine i)

/-- Every step sends at most one response, and what was sent stays sent; a response is sent only by a
command or by a read engine (30_encoding.md R106, R108). -/
def Obligations.AtMostOneResponsePerStep : Prop :=
  ∀ s t : State, step s = .next t →
    t.responses = s.responses ∨
    ((∃ st sid count, t.responses = responseWord st sid count :: s.responses) ∧
      ((∃ w, s.nextEvent = .command w) ∨ ∃ i, s.nextEvent = .engine i))

/-- `FMT` decides no step of the producer, of a read engine or of a command: with the other value of
`FMT` the same step is made, and leaves that value (10_state.md R30; 40_risc_program.md R130). -/
def Obligations.FormatDecidesNoStep : Prop :=
  ∀ (s t : State) (b : Bool),
    (s.nextEvent = .producer ∨ (∃ i, s.nextEvent = .engine i) ∨ ∃ w, s.nextEvent = .command w) →
    step s = .next t → step { s with fmt := b } = .next { t with fmt := b }

/-- The interrupt bits decide no step of a read engine: with any values of `INTSTAT` and `INTMSK` the
same step is made (10_state.md R28; 43_session_commands.md R194). -/
def Obligations.ReadEnginesIgnoreTheInterrupt : Prop :=
  ∀ (s t : State) (i : Nat) (b c : Bool), s.nextEvent = .engine i → step s = .next t →
    step { s with intstat := b, intmsk := c } = .next { t with intstat := b, intmsk := c }
end

