-- ==== Sys2Proof/Laws/Memory.lean ====
section
/-! SUPPORT. The laws of byte memory: read after write, what a write leaves alone, and that every
operation keeps the canonical form. -/

namespace Sys2Proof.Machine

open Sys2Proof

/-! ### Reading -/

@[simp] theorem Memory.read_nil (a : Nat) : Memory.read [] a = none := rfl

/-- A read after a write of the same address gives the value written. -/
@[simp] theorem Memory.read_write_same (m : Memory) (a : Nat) (v : Byte) :
    (m.write a v).read a = some v := by
  induction m with
  | nil => simp [Memory.write, Memory.read]
  | cons x m ih =>
    obtain ⟨k, w⟩ := x
    simp only [Memory.write]
    split
    · simp [Memory.read]
    · split
      · simp [Memory.read, *]
      · simp [Memory.read, *]

/-- A write leaves every other address alone. -/
theorem Memory.read_write_ne (m : Memory) {a b : Nat} (v : Byte) (h : b ≠ a) :
    (m.write a v).read b = m.read b := by
  induction m with
  | nil => simp [Memory.write, Memory.read, h]
  | cons x m ih =>
    obtain ⟨k, w⟩ := x
    simp only [Memory.write]
    split
    · simp [Memory.read, h]
    · split
      · subst_vars; simp [Memory.read, h]
      · simp [Memory.read, ih]

/-- What a write does to a read, in one equation. -/
theorem Memory.read_write (m : Memory) (a b : Nat) (v : Byte) :
    (m.write a v).read b = if b = a then some v else m.read b := by
  split
  · subst_vars; exact Memory.read_write_same m b v
  · exact Memory.read_write_ne m v ‹_›

/-- What a write of consecutive bytes does to a read. -/
theorem Memory.read_writeBytes (m : Memory) (a b : Nat) (vs : List Byte) :
    (m.writeBytes a vs).read b =
      if a ≤ b ∧ b < a + vs.length then vs[b - a]? else m.read b := by
  induction vs generalizing m a with
  | nil => simp only [Memory.writeBytes, List.length_nil]; rw [if_neg (by omega)]
  | cons v vs ih =>
    simp only [Memory.writeBytes, ih, Memory.read_write, List.length_cons]
    by_cases h1 : b = a
    · subst h1; simp
    · by_cases h2 : a + 1 ≤ b ∧ b < a + 1 + vs.length
      · obtain ⟨d, rfl⟩ : ∃ d, b = a + 1 + d := ⟨b - (a + 1), by omega⟩
        rw [if_pos h2, if_pos (by omega)]
        simp [show a + 1 + d - a = d + 1 by omega]
      · rw [if_neg h2, if_neg h1, if_neg (by omega)]

/-- A byte inside a run of bytes just written reads as that byte. -/
theorem Memory.read_writeBytes_at (m : Memory) (a k : Nat) (vs : List Byte) (h : k < vs.length) :
    (m.writeBytes a vs).read (a + k) = some vs[k] := by
  rw [Memory.read_writeBytes, if_pos (by omega)]; simp [h]

/-- A byte outside a run of bytes just written reads as before. -/
theorem Memory.read_writeBytes_out (m : Memory) (a b : Nat) (vs : List Byte)
    (h : ¬(a ≤ b ∧ b < a + vs.length)) : (m.writeBytes a vs).read b = m.read b := by
  rw [Memory.read_writeBytes, if_neg h]

@[simp] theorem Memory.writeBytes_nil (m : Memory) (a : Nat) : m.writeBytes a [] = m := rfl

/-! ### The canonical form -/

/-- Every entry a write leaves was there before or is the byte written. -/
theorem Memory.mem_write {m : Memory} {a : Nat} {v : Byte} {x : Host.Cell} (h : x ∈ m.write a v) :
    x = (a, v) ∨ x ∈ m := by
  induction m with
  | nil => simpa [Memory.write] using h
  | cons y m ih =>
    obtain ⟨k, w⟩ := y
    simp only [Memory.write] at h
    split at h
    · simpa using h
    · split at h
      · rcases List.mem_cons.mp h with h | h
        · subst_vars; exact .inl rfl
        · exact .inr (List.mem_cons_of_mem _ h)
      · rcases List.mem_cons.mp h with h | h
        · exact .inr (by simp [h])
        · exact (ih h).imp_right (List.mem_cons_of_mem _)

/-- A write keeps the canonical form. -/
theorem Memory.write_wf {m : Memory} (a : Nat) (v : Byte) (h : m.wf) : (m.write a v).wf := by
  induction m with
  | nil => simp [Memory.write, Memory.wf]
  | cons x m ih =>
    obtain ⟨k, w⟩ := x
    have h' := List.pairwise_cons.mp h
    simp only [Memory.write]
    split
    · refine List.pairwise_cons.mpr ⟨fun y hy => ?_, h⟩
      rcases List.mem_cons.mp hy with rfl | hy
      · assumption
      · exact Nat.lt_trans ‹a < k› (h'.1 y hy)
    · split
      · exact List.pairwise_cons.mpr ⟨h'.1, h'.2⟩
      · refine List.pairwise_cons.mpr ⟨fun y hy => ?_, ih h'.2⟩
        rcases Memory.mem_write hy with rfl | hy
        · show k < a; omega
        · exact h'.1 y hy

/-- A write of consecutive bytes keeps the canonical form. -/
theorem Memory.writeBytes_wf {m : Memory} (a : Nat) (vs : List Byte) (h : m.wf) :
    (m.writeBytes a vs).wf := by
  induction vs generalizing m a with
  | nil => exact h
  | cons v vs ih => exact ih (a + 1) (Memory.write_wf a v h)

/-- A write below a bound keeps every entry below it. -/
theorem Memory.write_below {m : Memory} {a n : Nat} (v : Byte) (ha : a < n) (h : m.below n) :
    (m.write a v).below n := by
  intro x hx
  rcases Memory.mem_write hx with rfl | hx
  · exact ha
  · exact h x hx

/-- A write of consecutive bytes below a bound keeps every entry below it. -/
theorem Memory.writeBytes_below {m : Memory} {a n : Nat} (vs : List Byte) (ha : a + vs.length ≤ n)
    (h : m.below n) : (m.writeBytes a vs).below n := by
  induction vs generalizing m a with
  | nil => exact h
  | cons v vs ih =>
    simp only [List.length_cons] at ha
    exact ih (by omega) (Memory.write_below v (by omega) h)

/-- The memories of the state after reset are in canonical form. -/
theorem State.reset_memory_wf : State.reset.phys.wf ∧ State.reset.dst.wf :=
  ⟨List.Pairwise.nil, List.Pairwise.nil⟩

/-! ### The bytes of PHYS -/

/-- `MemRead` after `MemWrite`, in one equation (00_scope.md R14). -/
theorem State.physByte_physWrite (s : State) (a b : Nat) (v : Byte) :
    (s.physWrite a v).physByte b = if b = a then v else s.physByte b := by
  simp only [State.physByte, State.physWrite, Memory.read_write]
  split <;> rfl

/-- `MemRead` inside a run of bytes just written. -/
theorem State.physByte_physWriteBytes_at (s : State) (a k : Nat) (vs : List Byte)
    (h : k < vs.length) : (s.physWriteBytes a vs).physByte (a + k) = vs[k] := by
  simp [State.physByte, State.physWriteBytes, Memory.read_writeBytes_at _ _ _ _ h]

/-- `MemRead` outside a run of bytes just written. -/
theorem State.physByte_physWriteBytes_out (s : State) (a b : Nat) (vs : List Byte)
    (h : ¬(a ≤ b ∧ b < a + vs.length)) : (s.physWriteBytes a vs).physByte b = s.physByte b := by
  simp [State.physByte, State.physWriteBytes, Memory.read_writeBytes_out _ _ _ _ h]

/-- The bytes of PHYS depend on the memory alone. -/
theorem State.physByte_congr {s t : State} (h : t.phys = s.phys) (a : Nat) :
    t.physByte a = s.physByte a := by simp [State.physByte, h]

end Sys2Proof.Machine
end

