-- ==== Sys2Proof/Laws/State.lean ====
section
/-! SUPPORT. What each named update of State leaves in each field: one lemma a field, true by rfl. -/

namespace Sys2Proof.Machine

open Sys2Proof

/-! ### `State.physWrite` -/

@[simp] theorem State.physWrite_params (s : State) (a : Nat) (v : Byte) :
    (s.physWrite a v).params = s.params := rfl
@[simp] theorem State.physWrite_rpc (s : State) (a : Nat) (v : Byte) :
    (s.physWrite a v).rpc = s.rpc := rfl
@[simp] theorem State.physWrite_gpcnt (s : State) (a : Nat) (v : Byte) :
    (s.physWrite a v).gpcnt = s.gpcnt := rfl
@[simp] theorem State.physWrite_pw (s : State) (a : Nat) (v : Byte) :
    (s.physWrite a v).pw = s.pw := rfl
@[simp] theorem State.physWrite_srcIdx (s : State) (a : Nat) (v : Byte) :
    (s.physWrite a v).srcIdx = s.srcIdx := rfl
@[simp] theorem State.physWrite_riscErr (s : State) (a : Nat) (v : Byte) :
    (s.physWrite a v).riscErr = s.riscErr := rfl
@[simp] theorem State.physWrite_intstat (s : State) (a : Nat) (v : Byte) :
    (s.physWrite a v).intstat = s.intstat := rfl
@[simp] theorem State.physWrite_intmsk (s : State) (a : Nat) (v : Byte) :
    (s.physWrite a v).intmsk = s.intmsk := rfl
@[simp] theorem State.physWrite_run (s : State) (a : Nat) (v : Byte) :
    (s.physWrite a v).run = s.run := rfl
@[simp] theorem State.physWrite_fmt (s : State) (a : Nat) (v : Byte) :
    (s.physWrite a v).fmt = s.fmt := rfl
@[simp] theorem State.physWrite_progBaseHi (s : State) (a : Nat) (v : Byte) :
    (s.physWrite a v).progBaseHi = s.progBaseHi := rfl
@[simp] theorem State.physWrite_pageAddr (s : State) (a : Nat) (v : Byte) :
    (s.physWrite a v).pageAddr = s.pageAddr := rfl
@[simp] theorem State.physWrite_sess (s : State) (a : Nat) (v : Byte) :
    (s.physWrite a v).sess = s.sess := rfl
@[simp] theorem State.physWrite_rd (s : State) (a : Nat) (v : Byte) :
    (s.physWrite a v).rd = s.rd := rfl
@[simp] theorem State.physWrite_phys (s : State) (a : Nat) (v : Byte) :
    (s.physWrite a v).phys = s.phys.write a v := rfl
@[simp] theorem State.physWrite_dst (s : State) (a : Nat) (v : Byte) :
    (s.physWrite a v).dst = s.dst := rfl
@[simp] theorem State.physWrite_dstAdmit (s : State) (a : Nat) (v : Byte) :
    (s.physWrite a v).dstAdmit = s.dstAdmit := rfl
@[simp] theorem State.physWrite_samples (s : State) (a : Nat) (v : Byte) :
    (s.physWrite a v).samples = s.samples := rfl
@[simp] theorem State.physWrite_responses (s : State) (a : Nat) (v : Byte) :
    (s.physWrite a v).responses = s.responses := rfl
@[simp] theorem State.physWrite_busReads (s : State) (a : Nat) (v : Byte) :
    (s.physWrite a v).busReads = s.busReads := rfl
@[simp] theorem State.physWrite_schedule (s : State) (a : Nat) (v : Byte) :
    (s.physWrite a v).schedule = s.schedule := rfl
@[simp] theorem State.physWrite_turn (s : State) (a : Nat) (v : Byte) :
    (s.physWrite a v).turn = s.turn := rfl
@[simp] theorem State.physWrite_freeUses (s : State) (a : Nat) (v : Byte) :
    (s.physWrite a v).freeUses = s.freeUses := rfl

/-! ### `State.physWriteBytes` -/

@[simp] theorem State.physWriteBytes_params (s : State) (a : Nat) (vs : List Byte) :
    (s.physWriteBytes a vs).params = s.params := rfl
@[simp] theorem State.physWriteBytes_rpc (s : State) (a : Nat) (vs : List Byte) :
    (s.physWriteBytes a vs).rpc = s.rpc := rfl
@[simp] theorem State.physWriteBytes_gpcnt (s : State) (a : Nat) (vs : List Byte) :
    (s.physWriteBytes a vs).gpcnt = s.gpcnt := rfl
@[simp] theorem State.physWriteBytes_pw (s : State) (a : Nat) (vs : List Byte) :
    (s.physWriteBytes a vs).pw = s.pw := rfl
@[simp] theorem State.physWriteBytes_srcIdx (s : State) (a : Nat) (vs : List Byte) :
    (s.physWriteBytes a vs).srcIdx = s.srcIdx := rfl
@[simp] theorem State.physWriteBytes_riscErr (s : State) (a : Nat) (vs : List Byte) :
    (s.physWriteBytes a vs).riscErr = s.riscErr := rfl
@[simp] theorem State.physWriteBytes_intstat (s : State) (a : Nat) (vs : List Byte) :
    (s.physWriteBytes a vs).intstat = s.intstat := rfl
@[simp] theorem State.physWriteBytes_intmsk (s : State) (a : Nat) (vs : List Byte) :
    (s.physWriteBytes a vs).intmsk = s.intmsk := rfl
@[simp] theorem State.physWriteBytes_run (s : State) (a : Nat) (vs : List Byte) :
    (s.physWriteBytes a vs).run = s.run := rfl
@[simp] theorem State.physWriteBytes_fmt (s : State) (a : Nat) (vs : List Byte) :
    (s.physWriteBytes a vs).fmt = s.fmt := rfl
@[simp] theorem State.physWriteBytes_progBaseHi (s : State) (a : Nat) (vs : List Byte) :
    (s.physWriteBytes a vs).progBaseHi = s.progBaseHi := rfl
@[simp] theorem State.physWriteBytes_pageAddr (s : State) (a : Nat) (vs : List Byte) :
    (s.physWriteBytes a vs).pageAddr = s.pageAddr := rfl
@[simp] theorem State.physWriteBytes_sess (s : State) (a : Nat) (vs : List Byte) :
    (s.physWriteBytes a vs).sess = s.sess := rfl
@[simp] theorem State.physWriteBytes_rd (s : State) (a : Nat) (vs : List Byte) :
    (s.physWriteBytes a vs).rd = s.rd := rfl
@[simp] theorem State.physWriteBytes_phys (s : State) (a : Nat) (vs : List Byte) :
    (s.physWriteBytes a vs).phys = s.phys.writeBytes a vs := rfl
@[simp] theorem State.physWriteBytes_dst (s : State) (a : Nat) (vs : List Byte) :
    (s.physWriteBytes a vs).dst = s.dst := rfl
@[simp] theorem State.physWriteBytes_dstAdmit (s : State) (a : Nat) (vs : List Byte) :
    (s.physWriteBytes a vs).dstAdmit = s.dstAdmit := rfl
@[simp] theorem State.physWriteBytes_samples (s : State) (a : Nat) (vs : List Byte) :
    (s.physWriteBytes a vs).samples = s.samples := rfl
@[simp] theorem State.physWriteBytes_responses (s : State) (a : Nat) (vs : List Byte) :
    (s.physWriteBytes a vs).responses = s.responses := rfl
@[simp] theorem State.physWriteBytes_busReads (s : State) (a : Nat) (vs : List Byte) :
    (s.physWriteBytes a vs).busReads = s.busReads := rfl
@[simp] theorem State.physWriteBytes_schedule (s : State) (a : Nat) (vs : List Byte) :
    (s.physWriteBytes a vs).schedule = s.schedule := rfl
@[simp] theorem State.physWriteBytes_turn (s : State) (a : Nat) (vs : List Byte) :
    (s.physWriteBytes a vs).turn = s.turn := rfl
@[simp] theorem State.physWriteBytes_freeUses (s : State) (a : Nat) (vs : List Byte) :
    (s.physWriteBytes a vs).freeUses = s.freeUses := rfl

/-! ### `State.setSession` -/

@[simp] theorem State.setSession_params (s : State) (i : Nat) (v : Session) :
    (s.setSession i v).params = s.params := rfl
@[simp] theorem State.setSession_rpc (s : State) (i : Nat) (v : Session) :
    (s.setSession i v).rpc = s.rpc := rfl
@[simp] theorem State.setSession_gpcnt (s : State) (i : Nat) (v : Session) :
    (s.setSession i v).gpcnt = s.gpcnt := rfl
@[simp] theorem State.setSession_pw (s : State) (i : Nat) (v : Session) :
    (s.setSession i v).pw = s.pw := rfl
@[simp] theorem State.setSession_srcIdx (s : State) (i : Nat) (v : Session) :
    (s.setSession i v).srcIdx = s.srcIdx := rfl
@[simp] theorem State.setSession_riscErr (s : State) (i : Nat) (v : Session) :
    (s.setSession i v).riscErr = s.riscErr := rfl
@[simp] theorem State.setSession_intstat (s : State) (i : Nat) (v : Session) :
    (s.setSession i v).intstat = s.intstat := rfl
@[simp] theorem State.setSession_intmsk (s : State) (i : Nat) (v : Session) :
    (s.setSession i v).intmsk = s.intmsk := rfl
@[simp] theorem State.setSession_run (s : State) (i : Nat) (v : Session) :
    (s.setSession i v).run = s.run := rfl
@[simp] theorem State.setSession_fmt (s : State) (i : Nat) (v : Session) :
    (s.setSession i v).fmt = s.fmt := rfl
@[simp] theorem State.setSession_progBaseHi (s : State) (i : Nat) (v : Session) :
    (s.setSession i v).progBaseHi = s.progBaseHi := rfl
@[simp] theorem State.setSession_pageAddr (s : State) (i : Nat) (v : Session) :
    (s.setSession i v).pageAddr = s.pageAddr := rfl
@[simp] theorem State.setSession_sess (s : State) (i : Nat) (v : Session) :
    (s.setSession i v).sess = s.sess.set i v := rfl
@[simp] theorem State.setSession_rd (s : State) (i : Nat) (v : Session) :
    (s.setSession i v).rd = s.rd := rfl
@[simp] theorem State.setSession_phys (s : State) (i : Nat) (v : Session) :
    (s.setSession i v).phys = s.phys := rfl
@[simp] theorem State.setSession_dst (s : State) (i : Nat) (v : Session) :
    (s.setSession i v).dst = s.dst := rfl
@[simp] theorem State.setSession_dstAdmit (s : State) (i : Nat) (v : Session) :
    (s.setSession i v).dstAdmit = s.dstAdmit := rfl
@[simp] theorem State.setSession_samples (s : State) (i : Nat) (v : Session) :
    (s.setSession i v).samples = s.samples := rfl
@[simp] theorem State.setSession_responses (s : State) (i : Nat) (v : Session) :
    (s.setSession i v).responses = s.responses := rfl
@[simp] theorem State.setSession_busReads (s : State) (i : Nat) (v : Session) :
    (s.setSession i v).busReads = s.busReads := rfl
@[simp] theorem State.setSession_schedule (s : State) (i : Nat) (v : Session) :
    (s.setSession i v).schedule = s.schedule := rfl
@[simp] theorem State.setSession_turn (s : State) (i : Nat) (v : Session) :
    (s.setSession i v).turn = s.turn := rfl
@[simp] theorem State.setSession_freeUses (s : State) (i : Nat) (v : Session) :
    (s.setSession i v).freeUses = s.freeUses := rfl

/-! ### `State.setEngine` -/

@[simp] theorem State.setEngine_params (s : State) (i : Nat) (v : ReadEngine) :
    (s.setEngine i v).params = s.params := rfl
@[simp] theorem State.setEngine_rpc (s : State) (i : Nat) (v : ReadEngine) :
    (s.setEngine i v).rpc = s.rpc := rfl
@[simp] theorem State.setEngine_gpcnt (s : State) (i : Nat) (v : ReadEngine) :
    (s.setEngine i v).gpcnt = s.gpcnt := rfl
@[simp] theorem State.setEngine_pw (s : State) (i : Nat) (v : ReadEngine) :
    (s.setEngine i v).pw = s.pw := rfl
@[simp] theorem State.setEngine_srcIdx (s : State) (i : Nat) (v : ReadEngine) :
    (s.setEngine i v).srcIdx = s.srcIdx := rfl
@[simp] theorem State.setEngine_riscErr (s : State) (i : Nat) (v : ReadEngine) :
    (s.setEngine i v).riscErr = s.riscErr := rfl
@[simp] theorem State.setEngine_intstat (s : State) (i : Nat) (v : ReadEngine) :
    (s.setEngine i v).intstat = s.intstat := rfl
@[simp] theorem State.setEngine_intmsk (s : State) (i : Nat) (v : ReadEngine) :
    (s.setEngine i v).intmsk = s.intmsk := rfl
@[simp] theorem State.setEngine_run (s : State) (i : Nat) (v : ReadEngine) :
    (s.setEngine i v).run = s.run := rfl
@[simp] theorem State.setEngine_fmt (s : State) (i : Nat) (v : ReadEngine) :
    (s.setEngine i v).fmt = s.fmt := rfl
@[simp] theorem State.setEngine_progBaseHi (s : State) (i : Nat) (v : ReadEngine) :
    (s.setEngine i v).progBaseHi = s.progBaseHi := rfl
@[simp] theorem State.setEngine_pageAddr (s : State) (i : Nat) (v : ReadEngine) :
    (s.setEngine i v).pageAddr = s.pageAddr := rfl
@[simp] theorem State.setEngine_sess (s : State) (i : Nat) (v : ReadEngine) :
    (s.setEngine i v).sess = s.sess := rfl
@[simp] theorem State.setEngine_rd (s : State) (i : Nat) (v : ReadEngine) :
    (s.setEngine i v).rd = s.rd.set i v := rfl
@[simp] theorem State.setEngine_phys (s : State) (i : Nat) (v : ReadEngine) :
    (s.setEngine i v).phys = s.phys := rfl
@[simp] theorem State.setEngine_dst (s : State) (i : Nat) (v : ReadEngine) :
    (s.setEngine i v).dst = s.dst := rfl
@[simp] theorem State.setEngine_dstAdmit (s : State) (i : Nat) (v : ReadEngine) :
    (s.setEngine i v).dstAdmit = s.dstAdmit := rfl
@[simp] theorem State.setEngine_samples (s : State) (i : Nat) (v : ReadEngine) :
    (s.setEngine i v).samples = s.samples := rfl
@[simp] theorem State.setEngine_responses (s : State) (i : Nat) (v : ReadEngine) :
    (s.setEngine i v).responses = s.responses := rfl
@[simp] theorem State.setEngine_busReads (s : State) (i : Nat) (v : ReadEngine) :
    (s.setEngine i v).busReads = s.busReads := rfl
@[simp] theorem State.setEngine_schedule (s : State) (i : Nat) (v : ReadEngine) :
    (s.setEngine i v).schedule = s.schedule := rfl
@[simp] theorem State.setEngine_turn (s : State) (i : Nat) (v : ReadEngine) :
    (s.setEngine i v).turn = s.turn := rfl
@[simp] theorem State.setEngine_freeUses (s : State) (i : Nat) (v : ReadEngine) :
    (s.setEngine i v).freeUses = s.freeUses := rfl

/-! ### `State.respond` -/

@[simp] theorem State.respond_params (s : State) (st : Status) (sid : Slot) (c : Word) :
    (s.respond st sid c).params = s.params := rfl
@[simp] theorem State.respond_rpc (s : State) (st : Status) (sid : Slot) (c : Word) :
    (s.respond st sid c).rpc = s.rpc := rfl
@[simp] theorem State.respond_gpcnt (s : State) (st : Status) (sid : Slot) (c : Word) :
    (s.respond st sid c).gpcnt = s.gpcnt := rfl
@[simp] theorem State.respond_pw (s : State) (st : Status) (sid : Slot) (c : Word) :
    (s.respond st sid c).pw = s.pw := rfl
@[simp] theorem State.respond_srcIdx (s : State) (st : Status) (sid : Slot) (c : Word) :
    (s.respond st sid c).srcIdx = s.srcIdx := rfl
@[simp] theorem State.respond_riscErr (s : State) (st : Status) (sid : Slot) (c : Word) :
    (s.respond st sid c).riscErr = s.riscErr := rfl
@[simp] theorem State.respond_intstat (s : State) (st : Status) (sid : Slot) (c : Word) :
    (s.respond st sid c).intstat = s.intstat := rfl
@[simp] theorem State.respond_intmsk (s : State) (st : Status) (sid : Slot) (c : Word) :
    (s.respond st sid c).intmsk = s.intmsk := rfl
@[simp] theorem State.respond_run (s : State) (st : Status) (sid : Slot) (c : Word) :
    (s.respond st sid c).run = s.run := rfl
@[simp] theorem State.respond_fmt (s : State) (st : Status) (sid : Slot) (c : Word) :
    (s.respond st sid c).fmt = s.fmt := rfl
@[simp] theorem State.respond_progBaseHi (s : State) (st : Status) (sid : Slot) (c : Word) :
    (s.respond st sid c).progBaseHi = s.progBaseHi := rfl
@[simp] theorem State.respond_pageAddr (s : State) (st : Status) (sid : Slot) (c : Word) :
    (s.respond st sid c).pageAddr = s.pageAddr := rfl
@[simp] theorem State.respond_sess (s : State) (st : Status) (sid : Slot) (c : Word) :
    (s.respond st sid c).sess = s.sess := rfl
@[simp] theorem State.respond_rd (s : State) (st : Status) (sid : Slot) (c : Word) :
    (s.respond st sid c).rd = s.rd := rfl
@[simp] theorem State.respond_phys (s : State) (st : Status) (sid : Slot) (c : Word) :
    (s.respond st sid c).phys = s.phys := rfl
@[simp] theorem State.respond_dst (s : State) (st : Status) (sid : Slot) (c : Word) :
    (s.respond st sid c).dst = s.dst := rfl
@[simp] theorem State.respond_dstAdmit (s : State) (st : Status) (sid : Slot) (c : Word) :
    (s.respond st sid c).dstAdmit = s.dstAdmit := rfl
@[simp] theorem State.respond_samples (s : State) (st : Status) (sid : Slot) (c : Word) :
    (s.respond st sid c).samples = s.samples := rfl
@[simp] theorem State.respond_responses (s : State) (st : Status) (sid : Slot) (c : Word) :
    (s.respond st sid c).responses = responseWord st sid c :: s.responses := rfl
@[simp] theorem State.respond_busReads (s : State) (st : Status) (sid : Slot) (c : Word) :
    (s.respond st sid c).busReads = s.busReads := rfl
@[simp] theorem State.respond_schedule (s : State) (st : Status) (sid : Slot) (c : Word) :
    (s.respond st sid c).schedule = s.schedule := rfl
@[simp] theorem State.respond_turn (s : State) (st : Status) (sid : Slot) (c : Word) :
    (s.respond st sid c).turn = s.turn := rfl
@[simp] theorem State.respond_freeUses (s : State) (st : Status) (sid : Slot) (c : Word) :
    (s.respond st sid c).freeUses = s.freeUses := rfl

/-! ### `State.advanceSample` -/

@[simp] theorem State.advanceSample_params (s : State) :
    s.advanceSample.params = s.params := rfl
@[simp] theorem State.advanceSample_rpc (s : State) :
    s.advanceSample.rpc = s.rpc := rfl
@[simp] theorem State.advanceSample_gpcnt (s : State) :
    s.advanceSample.gpcnt = s.gpcnt := rfl
@[simp] theorem State.advanceSample_pw (s : State) :
    s.advanceSample.pw = s.pw := rfl
@[simp] theorem State.advanceSample_srcIdx (s : State) :
    s.advanceSample.srcIdx = s.srcIdx + 1 := rfl
@[simp] theorem State.advanceSample_riscErr (s : State) :
    s.advanceSample.riscErr = s.riscErr := rfl
@[simp] theorem State.advanceSample_intstat (s : State) :
    s.advanceSample.intstat = s.intstat := rfl
@[simp] theorem State.advanceSample_intmsk (s : State) :
    s.advanceSample.intmsk = s.intmsk := rfl
@[simp] theorem State.advanceSample_run (s : State) :
    s.advanceSample.run = s.run := rfl
@[simp] theorem State.advanceSample_fmt (s : State) :
    s.advanceSample.fmt = s.fmt := rfl
@[simp] theorem State.advanceSample_progBaseHi (s : State) :
    s.advanceSample.progBaseHi = s.progBaseHi := rfl
@[simp] theorem State.advanceSample_pageAddr (s : State) :
    s.advanceSample.pageAddr = s.pageAddr := rfl
@[simp] theorem State.advanceSample_sess (s : State) :
    s.advanceSample.sess = s.sess := rfl
@[simp] theorem State.advanceSample_rd (s : State) :
    s.advanceSample.rd = s.rd := rfl
@[simp] theorem State.advanceSample_phys (s : State) :
    s.advanceSample.phys = s.phys := rfl
@[simp] theorem State.advanceSample_dst (s : State) :
    s.advanceSample.dst = s.dst := rfl
@[simp] theorem State.advanceSample_dstAdmit (s : State) :
    s.advanceSample.dstAdmit = s.dstAdmit := rfl
@[simp] theorem State.advanceSample_samples (s : State) :
    s.advanceSample.samples = s.samples := rfl
@[simp] theorem State.advanceSample_responses (s : State) :
    s.advanceSample.responses = s.responses := rfl
@[simp] theorem State.advanceSample_busReads (s : State) :
    s.advanceSample.busReads = s.busReads := rfl
@[simp] theorem State.advanceSample_schedule (s : State) :
    s.advanceSample.schedule = s.schedule := rfl
@[simp] theorem State.advanceSample_turn (s : State) :
    s.advanceSample.turn = s.turn := rfl
@[simp] theorem State.advanceSample_freeUses (s : State) :
    s.advanceSample.freeUses = s.freeUses := rfl

/-! ### `State.dstDeliver` -/

@[simp] theorem State.dstDeliver_params (s : State) (a : Nat) (vs : List Byte) :
    (s.dstDeliver a vs).params = s.params := rfl
@[simp] theorem State.dstDeliver_rpc (s : State) (a : Nat) (vs : List Byte) :
    (s.dstDeliver a vs).rpc = s.rpc := rfl
@[simp] theorem State.dstDeliver_gpcnt (s : State) (a : Nat) (vs : List Byte) :
    (s.dstDeliver a vs).gpcnt = s.gpcnt := rfl
@[simp] theorem State.dstDeliver_pw (s : State) (a : Nat) (vs : List Byte) :
    (s.dstDeliver a vs).pw = s.pw := rfl
@[simp] theorem State.dstDeliver_srcIdx (s : State) (a : Nat) (vs : List Byte) :
    (s.dstDeliver a vs).srcIdx = s.srcIdx := rfl
@[simp] theorem State.dstDeliver_riscErr (s : State) (a : Nat) (vs : List Byte) :
    (s.dstDeliver a vs).riscErr = s.riscErr := rfl
@[simp] theorem State.dstDeliver_intstat (s : State) (a : Nat) (vs : List Byte) :
    (s.dstDeliver a vs).intstat = s.intstat := rfl
@[simp] theorem State.dstDeliver_intmsk (s : State) (a : Nat) (vs : List Byte) :
    (s.dstDeliver a vs).intmsk = s.intmsk := rfl
@[simp] theorem State.dstDeliver_run (s : State) (a : Nat) (vs : List Byte) :
    (s.dstDeliver a vs).run = s.run := rfl
@[simp] theorem State.dstDeliver_fmt (s : State) (a : Nat) (vs : List Byte) :
    (s.dstDeliver a vs).fmt = s.fmt := rfl
@[simp] theorem State.dstDeliver_progBaseHi (s : State) (a : Nat) (vs : List Byte) :
    (s.dstDeliver a vs).progBaseHi = s.progBaseHi := rfl
@[simp] theorem State.dstDeliver_pageAddr (s : State) (a : Nat) (vs : List Byte) :
    (s.dstDeliver a vs).pageAddr = s.pageAddr := rfl
@[simp] theorem State.dstDeliver_sess (s : State) (a : Nat) (vs : List Byte) :
    (s.dstDeliver a vs).sess = s.sess := rfl
@[simp] theorem State.dstDeliver_rd (s : State) (a : Nat) (vs : List Byte) :
    (s.dstDeliver a vs).rd = s.rd := rfl
@[simp] theorem State.dstDeliver_phys (s : State) (a : Nat) (vs : List Byte) :
    (s.dstDeliver a vs).phys = s.phys := rfl
@[simp] theorem State.dstDeliver_dst (s : State) (a : Nat) (vs : List Byte) :
    (s.dstDeliver a vs).dst = s.dst.writeBytes a vs := rfl
@[simp] theorem State.dstDeliver_dstAdmit (s : State) (a : Nat) (vs : List Byte) :
    (s.dstDeliver a vs).dstAdmit = s.dstAdmit := rfl
@[simp] theorem State.dstDeliver_samples (s : State) (a : Nat) (vs : List Byte) :
    (s.dstDeliver a vs).samples = s.samples := rfl
@[simp] theorem State.dstDeliver_responses (s : State) (a : Nat) (vs : List Byte) :
    (s.dstDeliver a vs).responses = s.responses := rfl
@[simp] theorem State.dstDeliver_busReads (s : State) (a : Nat) (vs : List Byte) :
    (s.dstDeliver a vs).busReads = s.busReads := rfl
@[simp] theorem State.dstDeliver_schedule (s : State) (a : Nat) (vs : List Byte) :
    (s.dstDeliver a vs).schedule = s.schedule := rfl
@[simp] theorem State.dstDeliver_turn (s : State) (a : Nat) (vs : List Byte) :
    (s.dstDeliver a vs).turn = s.turn := rfl
@[simp] theorem State.dstDeliver_freeUses (s : State) (a : Nat) (vs : List Byte) :
    (s.dstDeliver a vs).freeUses = s.freeUses := rfl

/-! ### `State.dstScramble` -/

@[simp] theorem State.dstScramble_params (s : State) (a n : Nat) :
    (s.dstScramble a n).params = s.params := rfl
@[simp] theorem State.dstScramble_rpc (s : State) (a n : Nat) :
    (s.dstScramble a n).rpc = s.rpc := rfl
@[simp] theorem State.dstScramble_gpcnt (s : State) (a n : Nat) :
    (s.dstScramble a n).gpcnt = s.gpcnt := rfl
@[simp] theorem State.dstScramble_pw (s : State) (a n : Nat) :
    (s.dstScramble a n).pw = s.pw := rfl
@[simp] theorem State.dstScramble_srcIdx (s : State) (a n : Nat) :
    (s.dstScramble a n).srcIdx = s.srcIdx := rfl
@[simp] theorem State.dstScramble_riscErr (s : State) (a n : Nat) :
    (s.dstScramble a n).riscErr = s.riscErr := rfl
@[simp] theorem State.dstScramble_intstat (s : State) (a n : Nat) :
    (s.dstScramble a n).intstat = s.intstat := rfl
@[simp] theorem State.dstScramble_intmsk (s : State) (a n : Nat) :
    (s.dstScramble a n).intmsk = s.intmsk := rfl
@[simp] theorem State.dstScramble_run (s : State) (a n : Nat) :
    (s.dstScramble a n).run = s.run := rfl
@[simp] theorem State.dstScramble_fmt (s : State) (a n : Nat) :
    (s.dstScramble a n).fmt = s.fmt := rfl
@[simp] theorem State.dstScramble_progBaseHi (s : State) (a n : Nat) :
    (s.dstScramble a n).progBaseHi = s.progBaseHi := rfl
@[simp] theorem State.dstScramble_pageAddr (s : State) (a n : Nat) :
    (s.dstScramble a n).pageAddr = s.pageAddr := rfl
@[simp] theorem State.dstScramble_sess (s : State) (a n : Nat) :
    (s.dstScramble a n).sess = s.sess := rfl
@[simp] theorem State.dstScramble_rd (s : State) (a n : Nat) :
    (s.dstScramble a n).rd = s.rd := rfl
@[simp] theorem State.dstScramble_phys (s : State) (a n : Nat) :
    (s.dstScramble a n).phys = s.phys := rfl
@[simp] theorem State.dstScramble_dst (s : State) (a n : Nat) :
    (s.dstScramble a n).dst = s.dst.writeBytes a (s.freeBytes a n) := rfl
@[simp] theorem State.dstScramble_dstAdmit (s : State) (a n : Nat) :
    (s.dstScramble a n).dstAdmit = s.dstAdmit := rfl
@[simp] theorem State.dstScramble_samples (s : State) (a n : Nat) :
    (s.dstScramble a n).samples = s.samples := rfl
@[simp] theorem State.dstScramble_responses (s : State) (a n : Nat) :
    (s.dstScramble a n).responses = s.responses := rfl
@[simp] theorem State.dstScramble_busReads (s : State) (a n : Nat) :
    (s.dstScramble a n).busReads = s.busReads := rfl
@[simp] theorem State.dstScramble_schedule (s : State) (a n : Nat) :
    (s.dstScramble a n).schedule = s.schedule := rfl
@[simp] theorem State.dstScramble_turn (s : State) (a n : Nat) :
    (s.dstScramble a n).turn = s.turn := rfl
@[simp] theorem State.dstScramble_freeUses (s : State) (a n : Nat) :
    (s.dstScramble a n).freeUses = s.freeUses + 1 := rfl

/-! ### `State.consumed` -/

@[simp] theorem State.consumed_params (s : State) :
    s.consumed.params = s.params := rfl
@[simp] theorem State.consumed_rpc (s : State) :
    s.consumed.rpc = s.rpc := rfl
@[simp] theorem State.consumed_gpcnt (s : State) :
    s.consumed.gpcnt = s.gpcnt := rfl
@[simp] theorem State.consumed_pw (s : State) :
    s.consumed.pw = s.pw := rfl
@[simp] theorem State.consumed_srcIdx (s : State) :
    s.consumed.srcIdx = s.srcIdx := rfl
@[simp] theorem State.consumed_riscErr (s : State) :
    s.consumed.riscErr = s.riscErr := rfl
@[simp] theorem State.consumed_intstat (s : State) :
    s.consumed.intstat = s.intstat := rfl
@[simp] theorem State.consumed_intmsk (s : State) :
    s.consumed.intmsk = s.intmsk := rfl
@[simp] theorem State.consumed_run (s : State) :
    s.consumed.run = s.run := rfl
@[simp] theorem State.consumed_fmt (s : State) :
    s.consumed.fmt = s.fmt := rfl
@[simp] theorem State.consumed_progBaseHi (s : State) :
    s.consumed.progBaseHi = s.progBaseHi := rfl
@[simp] theorem State.consumed_pageAddr (s : State) :
    s.consumed.pageAddr = s.pageAddr := rfl
@[simp] theorem State.consumed_sess (s : State) :
    s.consumed.sess = s.sess := rfl
@[simp] theorem State.consumed_rd (s : State) :
    s.consumed.rd = s.rd := rfl
@[simp] theorem State.consumed_phys (s : State) :
    s.consumed.phys = s.phys := rfl
@[simp] theorem State.consumed_dst (s : State) :
    s.consumed.dst = s.dst := rfl
@[simp] theorem State.consumed_dstAdmit (s : State) :
    s.consumed.dstAdmit = s.dstAdmit := rfl
@[simp] theorem State.consumed_samples (s : State) :
    s.consumed.samples = s.samples := rfl
@[simp] theorem State.consumed_responses (s : State) :
    s.consumed.responses = s.responses := rfl
@[simp] theorem State.consumed_busReads (s : State) :
    s.consumed.busReads = s.busReads := rfl
@[simp] theorem State.consumed_schedule (s : State) :
    s.consumed.schedule = s.schedule.tail := rfl
@[simp] theorem State.consumed_turn (s : State) :
    s.consumed.turn = s.turn + 1 := rfl
@[simp] theorem State.consumed_freeUses (s : State) :
    s.consumed.freeUses = s.freeUses := rfl

end Sys2Proof.Machine
end

