-- ==== Sys2Proof/Laws/Ops.lean ====
section
/-! SUPPORT. One lemma for each shared operation: everything it can do. -/

namespace Sys2Proof.Machine

open Sys2Proof

/-! ### Slots -/

theorem State.session_setSession_same (s : State) {i : Nat} (v : Session) (h : i < s.sess.length) :
    (s.setSession i v).session i = v := by simp [State.session, State.setSession, h]

theorem State.session_setSession_ne (s : State) {i j : Nat} (v : Session) (h : j ≠ i) :
    (s.setSession i v).session j = s.session j := by
  simp [State.session, State.setSession, h.symm]

theorem State.engine_setEngine_same (s : State) {i : Nat} (v : ReadEngine) (h : i < s.rd.length) :
    (s.setEngine i v).engine i = v := by simp [State.engine, State.setEngine, h]

theorem State.engine_setEngine_ne (s : State) {i j : Nat} (v : ReadEngine) (h : j ≠ i) :
    (s.setEngine i v).engine j = s.engine j := by
  simp [State.engine, State.setEngine, h.symm]

/-- A slot's session depends on the session list alone. -/
theorem State.session_congr {s t : State} (h : t.sess = s.sess) (i : Nat) :
    t.session i = s.session i := by simp [State.session, h]

/-- A slot's engine depends on the engine list and the page size alone. -/
theorem State.engine_congr {s t : State} (h : t.rd = s.rd) (hp : t.params = s.params) (i : Nat) :
    t.engine i = s.engine i := by simp [State.engine, h, hp]

@[simp] theorem State.session_respond (s : State) (st : Status) (sid : Slot) (c : Word) (i : Nat) :
    (s.respond st sid c).session i = s.session i := rfl

@[simp] theorem State.engine_respond (s : State) (st : Status) (sid : Slot) (c : Word) (i : Nat) :
    (s.respond st sid c).engine i = s.engine i := rfl

@[simp] theorem State.session_setEngine (s : State) (i j : Nat) (v : ReadEngine) :
    (s.setEngine i v).session j = s.session j := rfl

@[simp] theorem State.engine_setSession (s : State) (i j : Nat) (v : Session) :
    (s.setSession i v).engine j = s.engine j := rfl

@[simp] theorem State.session_physWrite (s : State) (a : Nat) (v : Byte) (i : Nat) :
    (s.physWrite a v).session i = s.session i := rfl

@[simp] theorem State.engine_physWrite (s : State) (a : Nat) (v : Byte) (i : Nat) :
    (s.physWrite a v).engine i = s.engine i := rfl

@[simp] theorem State.session_dstDeliver (s : State) (a : Nat) (vs : List Byte) (i : Nat) :
    (s.dstDeliver a vs).session i = s.session i := rfl

@[simp] theorem State.engine_dstDeliver (s : State) (a : Nat) (vs : List Byte) (i : Nat) :
    (s.dstDeliver a vs).engine i = s.engine i := rfl

@[simp] theorem State.session_consumed (s : State) (i : Nat) : s.consumed.session i = s.session i := rfl

@[simp] theorem State.engine_consumed (s : State) (i : Nat) : s.consumed.engine i = s.engine i := rfl

/-! ### Taking an exception -/

/-- `RiscError` writes the sticky bit and nothing else (60_exceptions.md R243). -/
theorem takeException_riscError (s : State) :
    takeException .riscError s = { s with riscErr := true } := rfl

/-- `CallerBufferFault` writes the caller's bytes, the engine of its slot, the response and the
counter of free values, nothing else (60_exceptions.md R241). -/
theorem takeException_callerBufferFault (i : Nat) (s : State) :
    takeException (.callerBufferFault i) s =
      { s with
        dst := s.dst.writeBytes (s.engine i).dptr.toNat
          (s.freeBytes (s.engine i).dptr.toNat (s.engine i).clen)
        freeUses := s.freeUses + 1
        rd := s.rd.set i { s.engine i with phase := .idle }
        responses := responseWord .fault (BitVec.ofNat 16 i) 0 :: s.responses } := rfl

/-- A failed delivery leaves no byte outside DST. -/
theorem State.freeBytes_length (s : State) (a n : Nat) :
    (s.freeBytes a n).length = min n (2 ^ 64 - a) := by simp [State.freeBytes]

/-! ### Meanings that answer a next state, inverted -/

/-- A transfer step that goes on wrote one byte of a ring page (40_risc_program.md R125). -/
theorem transferStep_next {s t : State} (h : transferStep s = .next t) :
    s.inRing s.pw.addr.toNat = true ∧
      t = { s with
        phys := s.phys.write s.pw.addr.toNat s.nextSample
        srcIdx := s.srcIdx + 1
        pw := { s.pw with addr := s.pw.addr + 1, left := s.pw.left - 1 } } := by
  unfold transferStep at h
  split at h
  · exact ⟨‹_›, (Host.Outcome.next.inj h).symm⟩
  · cases h

/-- A generation that goes on (41_generator.md R141). -/
theorem execGenerate_next {sid : Slot} {s t : State} (h : execGenerate sid s = .next t) :
    s.producerEnabled = false ∧ s.progBase.toNat + progSize s.params ≤ 2 ^ 32 ∧
      t = s.writeImage.respond .done sid (BitVec.ofNat 32 (2 * s.params.pageCount + 2)) := by
  unfold execGenerate at h
  split at h
  · cases h
  · split at h
    · cases h
    · exact ⟨by simpa using ‹¬s.producerEnabled = true›, by omega, (Host.Outcome.next.inj h).symm⟩

/-- A staging step that goes on staged one ring byte, or finished the chunk
(43_session_commands.md R189). -/
theorem creadStep_next {i : Nat} {s t : State} (h : creadStep i s = .next t) :
    ((s.engine i).cidx < (s.engine i).clen ∧ ∃ a, s.chunkAddr i (s.engine i).cidx = some a ∧
        s.inRing a = true ∧
        t = s.setEngine i { s.engine i with
          cb := (s.engine i).cb.set (s.engine i).cidx (s.physByte a)
          cidx := (s.engine i).cidx + 1 }) ∨
      ((s.engine i).clen ≤ (s.engine i).cidx ∧
        t = s.setEngine i { s.engine i with phase := .cdeliver }) := by
  unfold creadStep at h
  split at h
  · split at h
    · cases h
    · split at h
      · exact .inl ⟨‹_›, _, ‹_›, ‹_›, (Host.Outcome.next.inj h).symm⟩
      · cases h
  · exact .inr ⟨by omega, (Host.Outcome.next.inj h).symm⟩

/-- A zeroing step that goes on zeroed one ring byte, or committed the chunk
(43_session_commands.md R191, R192). -/
theorem czeroStep_next {i : Nat} {s t : State} (h : czeroStep i s = .next t) :
    ((s.engine i).cidx < (s.engine i).clen ∧ ∃ a, s.chunkAddr i (s.engine i).cidx = some a ∧
        s.inRing a = true ∧
        t = (s.physWrite a 0).setEngine i { s.engine i with cidx := (s.engine i).cidx + 1 }) ∨
      ((s.engine i).clen ≤ (s.engine i).cidx ∧ t = commitStep i s) := by
  unfold czeroStep at h
  split at h
  · split at h
    · cases h
    · split at h
      · exact .inl ⟨‹_›, _, ‹_›, ‹_›, (Host.Outcome.next.inj h).symm⟩
      · cases h
  · exact .inr ⟨by omega, (Host.Outcome.next.inj h).symm⟩

/-- A register write that goes on did one of the things of 44_lifecycle_config.md R221 to R231. -/
theorem regWrite_next {off : Nat} {v : Word} {s t : State} (h : regWrite off v s = .next t) :
    t = s ∨
      (s.run = false ∧ s.mapOk = true ∧
        t = { s with
          rpc := s.progBase.setWidth 33, gpcnt := 0
          pw := { s.pw with active := false }, run := true }) ∨
      t = { s with run := false } ∨ (∃ b, t = { s with intmsk := b }) ∨
      (∃ b, t = { s with intstat := b }) ∨ (∃ b, t = { s with fmt := b }) ∨
      (s.live = false ∧ ∃ b, t = { s with progBaseHi := b }) ∨
      (s.live = false ∧ ∃ i, t = { s with pageAddr := s.pageAddr.set i v }) ∨
      (∃ i, v = s.page i ∧ t = { s with pageAddr := s.pageAddr.set i v }) := by
  unfold regWrite at h
  split at h
  · cases h
  · rename_i r _
    cases r <;> simp only [writeReg] at h
    case ctrl =>
      unfold writeCtrl at h
      split at h
      · split at h
        · exact .inl (Host.Outcome.next.inj h).symm
        · unfold startAction at h
          split at h
          · exact .inr (.inl ⟨by simpa using ‹¬s.run = true›, ‹_›, (Host.Outcome.next.inj h).symm⟩)
          · cases h
      · exact .inr (.inr (.inl (Host.Outcome.next.inj h).symm))
    case progBase =>
      unfold writeProgBase at h
      split at h
      · cases h
      · rename_i hfree
        have ht := (Host.Outcome.next.inj h).symm
        by_cases hl : s.live = true
        · have hv : v.extractLsb' 2 30 = s.progBaseHi := by
            by_contra hne; exact hfree ⟨hl, hne⟩
          left; rw [ht, hv]
        · exact .inr (.inr (.inr (.inr (.inr (.inr (.inl ⟨by simpa using hl, _, ht⟩))))))
    case pageAddr i _ =>
      unfold writePageAddr at h
      split at h
      · cases h
      · rename_i hfree
        have ht := (Host.Outcome.next.inj h).symm
        by_cases hl : s.live = true
        · have hv : v = s.page i := by
            by_contra hne; exact hfree ⟨hl, hne⟩
          exact .inr (.inr (.inr (.inr (.inr (.inr (.inr (.inr ⟨i, hv, ht⟩)))))))
        · exact .inr (.inr (.inr (.inr (.inr (.inr (.inr (.inl ⟨by simpa using hl, i, ht⟩)))))))
    case intmsk => exact .inr (.inr (.inr (.inl ⟨_, (Host.Outcome.next.inj h).symm⟩)))
    case intstat => exact .inr (.inr (.inr (.inr (.inl ⟨_, (Host.Outcome.next.inj h).symm⟩))))
    case fmt => exact .inr (.inr (.inr (.inr (.inr (.inl ⟨_, (Host.Outcome.next.inj h).symm⟩)))))
    all_goals exact .inl (Host.Outcome.next.inj h).symm

/-- A register read that goes on leaves the block alone (10_state.md R37). -/
theorem regRead_next {off : Nat} {s t : State} (h : regRead off s = .next t) :
    ∃ r, regAt s.params off = some r ∧ t = { s with busReads := regValue s r :: s.busReads } := by
  unfold regRead at h
  split at h
  · cases h
  · exact ⟨_, ‹_›, (Host.Outcome.next.inj h).symm⟩

/-- A host store that goes on touched neither the program region under an enabled producer nor a ring
page under a running or draining one (70_reset_and_hazards.md R282). -/
theorem hostStore_next {addr : Word} {vs : List Byte} {s t : State}
    (h : hostStore addr vs s = .next t) :
    addr.toNat + vs.length ≤ 2 ^ 32 ∧
      (s.producerEnabled = true →
        rangesMeet addr.toNat vs.length s.progBase.toNat (progSize s.params) = false) ∧
      (s.run = true ∨ s.pw.active = true →
        ∀ b ∈ s.pageAddr, rangesMeet addr.toNat vs.length b.toNat s.params.pageSize = false) ∧
      t = s.physWriteBytes addr.toNat vs := by
  unfold hostStore at h
  split at h
  · cases h
  · split at h
    · cases h
    · split at h
      · cases h
      · refine ⟨by omega, fun he => ?_, fun hr b hb => ?_, (Host.Outcome.next.inj h).symm⟩
        · by_contra hc
          exact ‹¬(s.producerEnabled = true ∧ _)› ⟨he, by simpa using hc⟩
        · by_contra hc
          exact ‹¬((s.run = true ∨ s.pw.active = true) ∧ _)›
            ⟨hr, List.any_eq_true.mpr ⟨b, hb, by simpa using hc⟩⟩

/-- A store of the host into DST that goes on. -/
theorem hostStoreDst_next {addr : Long} {vs : List Byte} {s t : State}
    (h : hostStoreDst addr vs s = .next t) :
    addr.toNat + vs.length ≤ 2 ^ 64 ∧ t = s.dstDeliver addr.toNat vs := by
  unfold hostStoreDst at h
  split at h
  · cases h
  · exact ⟨by omega, (Host.Outcome.next.inj h).symm⟩

end Sys2Proof.Machine
end

