-- ==== Sys2Proof/Laws/Inv.lean ====
section
/-! SUPPORT. What the parts of the invariant depend on: congruences, and the writes of memory and of
one slot. -/

namespace Sys2Proof.Machine

open Sys2Proof

/-- A PHYS write inside the space keeps the memory part. -/
theorem MemoryInv.writePhys {s t : State} (h : MemoryInv s) (a : Nat) (vs : List Byte)
    (hb : a + vs.length ≤ 2 ^ 32) (hp : t.phys = s.phys.writeBytes a vs) (hd : t.dst = s.dst) :
    MemoryInv t :=
  ⟨hp ▸ Memory.writeBytes_wf _ _ h.phys_wf, hp ▸ Memory.writeBytes_below _ hb h.phys_below,
    hd ▸ h.dst_wf, hd ▸ h.dst_below⟩

/-- A DST write inside the space keeps the memory part. -/
theorem MemoryInv.writeDst {s t : State} (h : MemoryInv s) (a : Nat) (vs : List Byte)
    (hb : a + vs.length ≤ 2 ^ 64) (hp : t.phys = s.phys) (hd : t.dst = s.dst.writeBytes a vs) :
    MemoryInv t :=
  ⟨hp ▸ h.phys_wf, hp ▸ h.phys_below, hd ▸ Memory.writeBytes_wf _ _ h.dst_wf,
    hd ▸ Memory.writeBytes_below _ hb h.dst_below⟩

/-- The memory part depends on the two memories alone. -/
theorem MemoryInv.congr {s t : State} (h : MemoryInv s) (hp : t.phys = s.phys) (hd : t.dst = s.dst) :
    MemoryInv t := h.writePhys 0 [] (by simp) hp hd

/-- The shape part depends on the sizes and the lengths alone. -/
theorem ShapeInv.congr {s t : State} (h : ShapeInv s) (hp : t.params = s.params)
    (h1 : t.pageAddr.length = s.pageAddr.length) (h2 : t.sess.length = s.sess.length)
    (h3 : t.rd.length = s.rd.length) : ShapeInv t :=
  ⟨hp ▸ h.sizes, by rw [h1, hp]; exact h.pages, by rw [h2, hp]; exact h.sessions,
    by rw [h3, hp]; exact h.engines⟩

/-- The producer part depends on `CTRL.RUN`, `RPC`, `PW` and `RISC_ERR` alone. -/
theorem ProducerInv.congr {s t : State} (h : ProducerInv s) (h1 : t.run = s.run) (h2 : t.rpc = s.rpc)
    (h3 : t.pw = s.pw) (h4 : t.riscErr = s.riscErr) : ProducerInv t := by
  obtain ⟨a, b, c, d, e⟩ := h
  constructor <;> simp only [h1, h2, h3, h4] <;> assumption

/-- A slot's part depends on its session, its engine and the sizes alone. -/
theorem SlotInv.congr {s t : State} {i : Nat} (h : SlotInv s i) (hp : t.params = s.params)
    (hs : t.session i = s.session i) (hr : t.engine i = s.engine i) : SlotInv t i := by
  obtain ⟨a, b, c⟩ := h
  refine ⟨by rw [hr, hp]; exact a, by rw [hs, hp]; exact b, fun h => ?_⟩
  obtain ⟨d1, d2, d3, d4, d5, d6, d7, d8⟩ := c (by rwa [hr] at h)
  constructor <;> (try simp only [hs, hr, hp]) <;> assumption

/-- A step that leaves every slot alone keeps their parts. -/
theorem slots_congr {s t : State} (hp : t.params = s.params) (hs : t.sess = s.sess)
    (hr : t.rd = s.rd) (h : ∀ i, i < s.params.nsess → SlotInv s i) :
    ∀ i, i < t.params.nsess → SlotInv t i := fun i hi =>
  (h i (hp ▸ hi)).congr hp (State.session_congr hs i) (State.engine_congr hr hp i)

/-- A step that leaves every slot but one alone keeps the parts of the others. -/
theorem slots_but_one {s t : State} (i0 : Nat) (hp : t.params = s.params)
    (hs : ∀ j, j ≠ i0 → t.session j = s.session j) (hr : ∀ j, j ≠ i0 → t.engine j = s.engine j)
    (h : ∀ i, i < s.params.nsess → SlotInv s i) (h0 : i0 < s.params.nsess → SlotInv t i0) :
    ∀ i, i < t.params.nsess → SlotInv t i := by
  intro i hi
  by_cases hne : i = i0
  · subst hne; exact h0 (hp ▸ hi)
  · exact (h i (hp ▸ hi)).congr hp (hs i hne) (hr i hne)

end Sys2Proof.Machine
end

