-- ==== Sys2Proof/Laws/PerInstr.lean ====
section
/-! SUPPORT. What is said of every instruction as syntax, one lemma a constructor: how many bytes its
encoding has (30_encoding.md R97, R100). -/

namespace Sys2Proof

/-- Bytes of an encoding: four a RISC word, sixteen a command word. -/
def Code.size : Code → Nat
  | .risc ws => 4 * ws.length
  | .command _ => 16

namespace Laws.EncodedSize

/-- An encoding has 4, 8 or 16 bytes, and 4 only `SYNC`'s (30_encoding.md R97). -/
def Statement (i : Instr) : Prop :=
  (encode i).size = 4 ∧ i = .sync ∨ (encode i).size = 8 ∨ (encode i).size = 16

theorem sync : Statement .sync := .inl ⟨rfl, rfl⟩

theorem write (irq : Bool) (cc : BitVec 2) (bc : BitVec 12) (addr : Word) :
    Statement (.write irq cc bc addr) := .inr (.inl rfl)

theorem jump (target : Word) : Statement (.jump target) := .inr (.inl rfl)

theorem openSession (sid : Slot) : Statement (.openSession sid) := .inr (.inr rfl)

theorem read (nb : Bool) (sid : Slot) (len : Word) (dst : Long) :
    Statement (.read nb sid len dst) := .inr (.inr rfl)

theorem closeSession (sid : Slot) : Statement (.closeSession sid) := .inr (.inr rfl)

theorem generate (sid : Slot) : Statement (.generate sid) := .inr (.inr rfl)

end Laws.EncodedSize

end Sys2Proof
end

