-- ==== Sys2Proof/Laws/Step.lean ====
section
/-! SUPPORT. What one step can do, said once: the kinds of instruction a fetch and a command word can
name, and the inversion of `step`. -/

namespace Sys2Proof.Machine

open Sys2Proof

/-! ### What the decoders answer -/

/-- A fetch finds a well-formed RISC instruction or none (30_encoding.md R98). -/
theorem decodeBytes_ok {bs : List Byte} {i : Instr} {rest : List Byte}
    (h : decodeBytes bs = .ok (i, rest)) :
    i = .sync ∨ (∃ irq cc bc addr, cc ≠ 0b10#2 ∧ i = .write irq cc bc addr) ∨
      ∃ target, target.toNat % 4 = 0 ∧ i = .jump target := by
  unfold decodeBytes at h
  split at h
  · unfold decodeFrom at h
    split at h
    · exact .inl (by simpa using (Prod.mk.inj (Except.ok.inj h)).1.symm)
    · split at h
      · unfold decodeTwoWord at h
        split at h
        · split at h
          · unfold decodeWrite at h
            split at h
            · cases h
            · exact .inr (.inl ⟨_, _, _, _, ‹_›, (Prod.mk.inj (Except.ok.inj h)).1.symm⟩)
          · unfold decodeJump at h
            split at h
            · exact .inr (.inr ⟨_, ‹_›, (Prod.mk.inj (Except.ok.inj h)).1.symm⟩)
            · cases h
        · cases h
      · cases h
  · cases h

/-- The same of the fetch. -/
theorem fetch_ok {s : State} {i : Instr} (h : s.fetch = .ok i) :
    i = .sync ∨ (∃ irq cc bc addr, cc ≠ 0b10#2 ∧ i = .write irq cc bc addr) ∨
      ∃ target, target.toNat % 4 = 0 ∧ i = .jump target := by
  unfold State.fetch at h
  cases hd : decodeBytes s.fetchWindow with
  | error r => rw [hd] at h; cases h
  | ok x => rw [hd] at h; obtain rfl := Except.ok.inj h; exact decodeBytes_ok (rest := x.2) hd

/-- A fetch that finds an instruction had an aligned `RPC` inside the program region
(40_risc_program.md R121). -/
theorem fetch_ok_place {s : State} {i : Instr} (h : s.fetch = .ok i) :
    s.rpc.toNat % 4 = 0 ∧ s.inProgram s.rpc.toNat 4 = true ∧
      (s.inProgram s.rpc.toNat 8 = true ∨ i = .sync) := by
  unfold State.fetch State.fetchWindow at h
  split at h
  · simp [decodeBytes, Except.map] at h
  · split at h
    · refine ⟨by omega, ?_, .inl ‹_›⟩
      simp only [State.inProgram, decide_eq_true_eq] at *
      omega
    · split at h
      · refine ⟨by omega, ‹_›, .inr ?_⟩
        simp only [State.physBytes, List.range_succ_eq_map, List.range_zero, List.map_cons,
          List.map_nil, decodeBytes, decodeFrom, decodeTwoWord] at h
        split at h
        · simpa [Except.map] using h.symm
        · split at h <;> simp [Except.map] at h
      · simp [decodeBytes, Except.map] at h

/-- A command word that decodes names one of the four commands (30_encoding.md R101). -/
theorem decodeCommand_ok {w : CmdWord} {i : Instr} (h : decodeCommand w = .ok i) :
    i = .openSession (sidField w) ∨
      i = .read (nbField w) (sidField w) (lenField w) (dstField w) ∨
      i = .closeSession (sidField w) ∨ i = .generate (sidField w) := by
  unfold decodeCommand commandOf at h
  split at h
  · cases h
  · rename_i j hj
    split at h
    · obtain rfl := Except.ok.inj h
      split at hj
      · exact .inl (Option.some.inj hj).symm
      · split at hj
        · exact .inr (.inl (Option.some.inj hj).symm)
        · split at hj
          · exact .inr (.inr (.inl (Option.some.inj hj).symm))
          · split at hj
            · exact .inr (.inr (.inr (Option.some.inj hj).symm))
            · cases hj
    · cases h

/-! ### Meanings of commands that answer a next state, inverted -/

/-- `OPEN`: refused by a response, or the session is opened (43_session_commands.md R181). -/
theorem execOpenSession_next {sid : Slot} {s t : State} (h : execOpenSession sid s = .next t) :
    (∃ r, openCheck sid s = some r ∧ t = s.respond .refused sid (reasonCode r)) ∨
      (openCheck sid s = none ∧
        t = { (s.setSession sid.toNat { valid := true, pos := 0, initialPage := s.openPage }) with
          intmsk := true }.respond .done sid s.openPage) := by
  unfold execOpenSession at h
  split at h
  · exact .inl ⟨_, ‹_›, (Host.Outcome.next.inj h).symm⟩
  · exact .inr ⟨‹_›, (Host.Outcome.next.inj h).symm⟩

/-- `CLOSE`: refused by a response, or the session is closed (43_session_commands.md R183). -/
theorem execCloseSession_next {sid : Slot} {s t : State} (h : execCloseSession sid s = .next t) :
    (∃ r, slotCheck sid s = some r ∧ t = s.respond .refused sid (reasonCode r)) ∨
      (slotCheck sid s = none ∧
        t = { (s.setSession sid.toNat s.closedSession) with
          intmsk := false, freeUses := s.freeUses + 1 }.respond .done sid 0) := by
  unfold execCloseSession at h
  split at h
  · exact .inl ⟨_, ‹_›, (Host.Outcome.next.inj h).symm⟩
  · exact .inr ⟨‹_›, (Host.Outcome.next.inj h).symm⟩

/-- `READ`: refused by a response, or accepted (43_session_commands.md R186). -/
theorem execRead_next {nb : Bool} {sid : Slot} {len : Word} {dst : Long} {s t : State}
    (h : execRead nb sid len dst s = .next t) :
    (∃ r, readCheck sid len dst s = some r ∧ t = s.respond .refused sid (reasonCode r)) ∨
      (readCheck sid len dst s = none ∧ t = acceptRead nb sid len dst s) := by
  unfold execRead at h
  split at h
  · exact .inl ⟨_, ‹_›, (Host.Outcome.next.inj h).symm⟩
  · exact .inr ⟨‹_›, (Host.Outcome.next.inj h).symm⟩

/-- What the checks of `OPEN` leave when none fails. -/
theorem openCheck_none {sid : Slot} {s : State} (h : openCheck sid s = none) :
    sid.toNat < s.params.nsess ∧ (s.session sid.toNat).valid = false := by
  unfold openCheck at h
  split at h
  · cases h
  · split at h
    · cases h
    · exact ⟨by omega, by simpa using ‹¬(s.session sid.toNat).valid = true›⟩

/-- What the checks of `CLOSE` leave when none fails. -/
theorem slotCheck_none {sid : Slot} {s : State} (h : slotCheck sid s = none) :
    sid.toNat < s.params.nsess ∧ (s.session sid.toNat).valid = true ∧
      (s.engine sid.toNat).phase = .idle := by
  unfold slotCheck at h
  split at h
  · cases h
  · split at h
    · cases h
    · split at h
      · cases h
      · exact ⟨by omega, by simpa using ‹¬(s.session sid.toNat).valid = false›,
          by simpa using ‹¬(s.engine sid.toNat).phase ≠ .idle›⟩

/-- What the checks of `READ` leave when none fails. -/
theorem readCheck_none {sid : Slot} {len : Word} {dst : Long} {s : State}
    (h : readCheck sid len dst s = none) :
    slotCheck sid s = none ∧ (s.session sid.toNat).pos.toNat + len.toNat < 2 ^ 64 ∧
      dst.toNat + len.toNat ≤ 2 ^ 64 := by
  unfold readCheck at h
  split at h
  · cases h
  · split at h
    · cases h
    · split at h
      · cases h
      · exact ⟨‹_›, by omega, by omega⟩

/-! ### Runs -/

theorem core_run_zero (s : State) : core.run 0 s = .next s := rfl

/-- A run whose first step goes on is the run from where that step leads. -/
theorem core_run_succ {n : Nat} {s t : State} (h : step s = .next t) :
    core.run (n + 1) s = core.run n t := by
  have hr := Host.Core.run.eq_2 core s n
  rw [show core.step s = .next t from h] at hr
  exact hr

/-! ### The step, inverted -/

/-- The producer's part of a step that goes on (40_risc_program.md R120). -/
inductive ProducerStep (s : State) : State → Prop where
  /-- The producer had no enabled step. -/
  | disabled (h : s.producerEnabled = false) : ProducerStep s s
  /-- The `WRITE` in flight completed. -/
  | complete (he : s.riscErr = false) (ha : s.pw.active = true) (hl : s.pw.left = 0) :
    ProducerStep s (completionStep s)
  /-- The `WRITE` in flight moved a byte. -/
  | transfer (t : State) (he : s.riscErr = false) (ha : s.pw.active = true) (hl : s.pw.left ≠ 0)
    (h : transferStep s = .next t) : ProducerStep s t
  /-- An instruction was fetched and executed. -/
  | fetched (i : Instr) (t : State) (he : s.riscErr = false) (ha : s.pw.active = false)
    (hr : s.run = true) (hf : s.fetch = .ok i) (h : exec i s = .next t) : ProducerStep s t
  /-- No instruction could be fetched. -/
  | error (r : Reject) (he : s.riscErr = false) (ha : s.pw.active = false) (hr : s.run = true)
    (hf : s.fetch = .error r) : ProducerStep s (takeException .riscError s)

/-- The other agents' parts of a step that goes on. -/
inductive OtherStep (s : State) : Event → State → Prop where
  | engine (i : Nat) (t : State) (h : engineStep i s = .next t) : OtherStep s (.engine i) t
  | command (w : CmdWord) (i : Instr) (t : State) (hd : decodeCommand w = .ok i)
    (h : exec i s = .next t) : OtherStep s (.command w) t
  | badCommand (w : CmdWord) (r : RefuseReason) (hr : r = .badOpcode ∨ r = .badReserved) :
    OtherStep s (.command w) (s.refuseCommand (sidField w) r)
  | regRead (off : Nat) (t : State) (h : regRead off s = .next t) : OtherStep s (.regRead off) t
  | regWrite (off : Nat) (v : Word) (t : State) (h : regWrite off v s = .next t) :
    OtherStep s (.regWrite off v) t
  | reset : OtherStep s .reset (resetEvent s)
  | setDstAdmit (bs : List DstBox) : OtherStep s (.setDstAdmit bs) { s with dstAdmit := bs }
  | hostStore (a : Word) (vs : List Byte) (t : State) (h : hostStore a vs s = .next t) :
    OtherStep s (.hostStore a vs) t
  | hostStoreDst (a : Long) (vs : List Byte) (t : State) (h : hostStoreDst a vs s = .next t) :
    OtherStep s (.hostStoreDst a vs) t

/-- A producer's turn that goes on is one of the five of `ProducerStep`. -/
theorem producerTurn_next {s t : State}
    (h : (match producerTurn s with | .execute i u => exec i u | .finished o => o) = .next t) :
    ProducerStep s t := by
  unfold producerTurn at h
  by_cases he : s.riscErr = true
  · rw [if_pos he] at h
    obtain rfl := Host.Outcome.next.inj h
    exact .disabled (by simp [State.producerEnabled, he])
  · rw [if_neg he] at h
    have he' : s.riscErr = false := by simpa using he
    by_cases ha : s.pw.active = true
    · rw [if_pos ha] at h
      by_cases hl : s.pw.left = 0
      · simp only [if_pos hl] at h
        obtain rfl := Host.Outcome.next.inj h
        exact .complete he' ha hl
      · simp only [if_neg hl] at h
        exact .transfer t he' ha hl h
    · rw [if_neg ha] at h
      have ha' : s.pw.active = false := by simpa using ha
      by_cases hr : s.run = true
      · rw [if_pos hr] at h
        cases hf : s.fetch with
        | ok i => simp only [hf] at h; exact .fetched i t he' ha' hr hf h
        | error r =>
          simp only [hf] at h
          obtain rfl := Host.Outcome.next.inj h
          exact .error r he' ha' hr hf
      · rw [if_neg hr] at h
        obtain rfl := Host.Outcome.next.inj h
        exact .disabled (by simp [State.producerEnabled, ha', hr])

/-- A step that goes on: the event was taken, and its agent did one of the things it can do. -/
theorem step_next {s t : State} (h : step s = .next t) :
    (s.nextEvent = .producer ∧ ProducerStep s.consumed t) ∨
      OtherStep s.consumed s.nextEvent t := by
  unfold step at h
  cases he : s.nextEvent with
  | producer => rw [he] at h; exact .inl ⟨rfl, producerTurn_next h⟩
  | engine i => rw [he] at h; exact .inr (.engine i t h)
  | command w =>
    rw [he] at h
    simp only [takeTurn, commandTurn] at h
    refine .inr ?_
    cases hd : decodeCommand w with
    | ok i => simp only [hd] at h; exact .command w i t hd h
    | error r =>
      cases r <;> simp only [hd] at h <;> obtain rfl := Host.Outcome.next.inj h
      case cmdReserved => exact .badCommand w _ (.inr rfl)
      all_goals exact .badCommand w _ (.inl rfl)
  | regRead off => rw [he] at h; exact .inr (.regRead off t h)
  | regWrite off v => rw [he] at h; exact .inr (.regWrite off v t h)
  | reset => rw [he] at h; obtain rfl := Host.Outcome.next.inj h; exact .inr .reset
  | setDstAdmit bs => rw [he] at h; obtain rfl := Host.Outcome.next.inj h; exact .inr (.setDstAdmit bs)
  | hostStore a vs => rw [he] at h; exact .inr (.hostStore a vs t h)
  | hostStoreDst a vs => rw [he] at h; exact .inr (.hostStoreDst a vs t h)

end Sys2Proof.Machine
end

