-- ==== Sys2Proof/Laws/Program.lean ====
section
/-! SUPPORT. Words and bytes of instructions: decoding what is written, and where the words of the
generated image stand in memory (30_encoding.md; 41_generator.md R142). -/

namespace Sys2Proof

/-! ### Fields of a word -/

/-- A word is the word of its own bytes (20_memory.md R68). -/
theorem wordOfBytes_extract (w : Word) :
    wordOfBytes (w.extractLsb' 0 8) (w.extractLsb' 8 8) (w.extractLsb' 16 8) (w.extractLsb' 24 8) = w := by
  apply BitVec.eq_of_getLsbD_eq
  intro i hi
  simp only [wordOfBytes, BitVec.getLsbD_append, BitVec.getLsbD_extractLsb']
  interval_cases i <;> simp

theorem opcodeField_toNat (w : Word) : (opcodeField w).toNat = w.toNat / 2 ^ 28 := by
  simp [opcodeField, Nat.shiftRight_eq_div_pow]; have := w.isLt; omega

theorem ccField_toNat (w : Word) : (ccField w).toNat = w.toNat / 2 ^ 16 % 4 := by
  simp [ccField, Nat.shiftRight_eq_div_pow]

theorem bcField_toNat (w : Word) : (bcField w).toNat = w.toNat % 4096 := by
  simp [bcField]

theorem irqField_eq (w : Word) : irqField w = decide (w.toNat / 2 ^ 24 % 2 = 1) := by
  simp [irqField, BitVec.getLsbD, Nat.testBit, Nat.shiftRight_eq_div_pow]
  rcases Nat.mod_two_eq_zero_or_one (w.toNat / 16777216) with h | h <;> simp [h]

/-- Bit 0 of a register value. -/
theorem getLsbD_zero_eq (v : Word) : v.getLsbD 0 = decide (v.toNat % 2 = 1) := by
  rw [BitVec.getLsbD]; simp [Nat.testBit]
  rcases Nat.mod_two_eq_zero_or_one v.toNat with h | h <;> simp [h]

/-- A `b` of 12 bits below bits that are all above them is added. -/
theorem or_low12 {b : Nat} (hb : b < 4096) (a : Nat) : 4096 * a ||| b = 4096 * a + b := by
  simpa using (Nat.two_pow_add_eq_or_of_lt (i := 12) hb a).symm

/-- Word 0 of a `WRITE` as a number (41_generator.md R142). -/
theorem writeWord0_toNat (irq : Bool) (cc : BitVec 2) (bc : BitVec 12) :
    (writeWord0 irq cc bc).toNat =
      0x10000000 + irq.toNat * 2 ^ 24 + cc.toNat * 2 ^ 16 + bc.toNat := by
  have h1 := cc.isLt
  have key : ∀ c < 4, ∀ b < 4096,
      ((((((1 <<< 3 ||| 0) <<< 1 ||| irq.toNat) <<< 6 ||| 0) <<< 2 ||| c) <<< 4 ||| 0) <<< 12 ||| b) =
        0x10000000 + irq.toNat * 2 ^ 24 + c * 2 ^ 16 + b := by
    intro c hc b hb
    rw [Nat.shiftLeft_eq, Nat.mul_comm, or_low12 hb]
    interval_cases c <;> cases irq <;> simp
  simp only [writeWord0, BitVec.toNat_append]
  simpa using key _ h1 _ bc.isLt

/-! ### Decoding what is written -/

theorem decodeBytes_write (irq : Bool) (cc : BitVec 2) (bc : BitVec 12) (a : Word) (rest : List Byte)
    (h : cc ≠ 0b10#2) :
    decodeBytes (bytesOfWord (writeWord0 irq cc bc) ++ (bytesOfWord a ++ rest)) =
      .ok (.write irq cc bc a, rest) := by
  have h1 := cc.isLt
  have h2 := bc.isLt
  have n := writeWord0_toNat irq cc bc
  have ho : opcodeField (writeWord0 irq cc bc) = 1#4 := by
    apply BitVec.eq_of_toNat_eq; rw [opcodeField_toNat, n]; cases irq <;> simp <;> omega
  have hc : ccField (writeWord0 irq cc bc) = cc := by
    apply BitVec.eq_of_toNat_eq; rw [ccField_toNat, n]; cases irq <;> simp <;> omega
  have hb : bcField (writeWord0 irq cc bc) = bc := by
    apply BitVec.eq_of_toNat_eq; rw [bcField_toNat, n]; cases irq <;> simp <;> omega
  have hi : irqField (writeWord0 irq cc bc) = irq := by
    rw [irqField_eq, n]; cases irq <;> simp <;> omega
  simp only [bytesOfWord, List.cons_append, List.nil_append, decodeBytes, decodeFrom,
    wordOfBytes_extract, ho, decodeTwoWord, decodeWrite, hc, hb, hi, if_neg h]
  simp [Except.map]

theorem decodeBytes_jump (a : Word) (rest : List Byte) (h : a.toNat % 4 = 0) :
    decodeBytes (bytesOfWord 0x70000000#32 ++ (bytesOfWord a ++ rest)) = .ok (.jump a, rest) := by
  have ho : opcodeField 0x70000000#32 = 7#4 := by decide
  simp only [bytesOfWord, List.cons_append, List.nil_append, decodeBytes, decodeFrom,
    wordOfBytes_extract, ho, decodeTwoWord, decodeJump, if_pos h]
  simp [Except.map]

theorem decodeBytes_sync (rest : List Byte) :
    decodeBytes (bytesOfWord 0x80000000#32 ++ rest) = .ok (.sync, rest) := by
  have ho : opcodeField 0x80000000#32 = 8#4 := by decide
  simp only [bytesOfWord, List.cons_append, List.nil_append, decodeBytes, decodeFrom,
    wordOfBytes_extract, ho]
  simp

/-! ### Bytes of a list of words -/

/-- Byte `4 * k + j` of a list of words is byte `j` of word `k`. -/
theorem flatMap_bytes_getElem? (ws : List Word) (k j : Nat) (hj : j < 4) :
    (ws.flatMap bytesOfWord)[4 * k + j]? = ws[k]?.bind fun w => (bytesOfWord w)[j]? := by
  induction ws generalizing k with
  | nil => simp
  | cons w ws ih =>
    simp only [List.flatMap_cons]
    cases k with
    | zero => rw [List.getElem?_append_left (by simp [bytesOfWord]; omega)]; simp
    | succ k =>
      rw [List.getElem?_append_right (by simp [bytesOfWord]; omega)]
      simp only [show (bytesOfWord w).length = 4 from rfl,
        show 4 * (k + 1) + j - 4 = 4 * k + j by omega, ih]
      simp

theorem flatMap_bytes_length (ws : List Word) : (ws.flatMap bytesOfWord).length = 4 * ws.length := by
  induction ws with
  | nil => rfl
  | cons a l ih => simp [bytesOfWord] at ih ⊢; omega

namespace Machine

/-- Bytes of PHYS in two runs. -/
theorem State.physBytes_add (s : State) (a n m : Nat) :
    s.physBytes a (n + m) = s.physBytes a n ++ s.physBytes (a + n) m := by
  simp [State.physBytes, List.range_add, Nat.add_assoc, Function.comp_def]

/-- The low bits of `PROG_BASE` are hard-wired to 0 (10_state.md R31). -/
theorem State.progBase_aligned (s : State) : s.progBase.toNat % 4 = 0 := by
  simp only [State.progBase, BitVec.toNat_append]; simp [Nat.shiftLeft_eq]

/-! ### The words of the image -/

/-- The words of the `WRITE`s of the first `n` pages. -/
theorem pageWrites_words_length (s : State) (n : Nat) :
    (((List.range n).flatMap (pageWrites s)).flatMap riscWords).length = 4 * n := by
  induction n with
  | zero => rfl
  | succ n ih => simp [List.range_succ, pageWrites, riscWords, encode] at ih ⊢; omega

/-- The image: the `SYNC`, the `WRITE`s, the `JUMP` (41_generator.md R142). -/
theorem imageWords_eq (s : State) :
    imageWords s = 0x80000000#32 ::
      ((((List.range s.params.pageCount).flatMap (pageWrites s)).flatMap riscWords) ++
        [0x70000000#32, s.progBase + 4]) := by
  simp [imageWords, programOf, List.flatMap_append]; simp [riscWords, encode]

theorem imageWords_length (s : State) : (imageWords s).length = 4 * s.params.pageCount + 3 := by
  rw [imageWords_eq]
  simp only [List.length_cons, List.length_append, pageWrites_words_length, List.length_nil]

/-- The `n`-th `WRITE` of the program, `n` from 0, and its two words (41_generator.md R142 to R144). -/
theorem pageWrites_getElem? (s : State) (n : Nat) : ∀ k, n < 2 * k → ∃ irq cc bc a,
    ((List.range k).flatMap (pageWrites s))[n]? = some (.write irq cc bc a) ∧
    (((List.range k).flatMap (pageWrites s)).flatMap riscWords)[2 * n]? =
      some (writeWord0 irq cc bc) ∧
    (((List.range k).flatMap (pageWrites s)).flatMap riscWords)[2 * n + 1]? = some a ∧
    irq = irqFlag (n + 1) ∧ bc = BitVec.ofNat 12 (clusterSize s.params) ∧
    cc = (if n % 2 = 0 then 0b00 else secondHalfCc s.params.pageCount (n / 2)) ∧
    a = (if n % 2 = 0 then s.page (n / 2)
      else s.page (n / 2) + BitVec.ofNat 32 (clusterSize s.params)) := by
  intro k
  induction k with
  | zero => intro h; omega
  | succ k ih =>
    intro h
    have hl : ((List.range k).flatMap (pageWrites s)).length = 2 * k := by
      clear ih h
      induction k with
      | zero => rfl
      | succ k ih => simp [List.range_succ, pageWrites] at ih ⊢; omega
    have hl' := pageWrites_words_length s k
    simp only [List.range_succ, List.flatMap_append, List.flatMap_cons, List.flatMap_nil,
      List.append_nil]
    by_cases hn : n < 2 * k
    · obtain ⟨irq, cc, bc, a, e1, e2, e3, e⟩ := ih hn
      refine ⟨irq, cc, bc, a, ?_, ?_, ?_, e⟩
      · rw [List.getElem?_append_left (by omega)]; exact e1
      · rw [List.getElem?_append_left (by omega)]; exact e2
      · rw [List.getElem?_append_left (by omega)]; exact e3
    · rcases (show n = 2 * k ∨ n = 2 * k + 1 by omega) with rfl | rfl
      · refine ⟨_, _, _, _, ?_, ?_, ?_, rfl, rfl, rfl, rfl⟩
        · rw [List.getElem?_append_right (by omega), hl]; simp [pageWrites]
        · rw [List.getElem?_append_right (by omega), hl', show 2 * (2 * k) - 4 * k = 0 by omega]
          simp [pageWrites, riscWords, encode]
        · rw [List.getElem?_append_right (by omega), hl', show 2 * (2 * k) + 1 - 4 * k = 1 by omega]
          simp [pageWrites, riscWords, encode]
      · have e1 : (2 * k + 1) / 2 = k := by omega
        have e2 : (2 * k + 1) % 2 = 1 := by omega
        refine ⟨_, _, _, _, ?_, ?_, ?_, rfl, rfl, rfl, rfl⟩
        · rw [List.getElem?_append_right (by omega), hl]; simp [pageWrites, e1, e2]
        · rw [List.getElem?_append_right (by omega), hl', show 2 * (2 * k + 1) - 4 * k = 2 by omega]
          simp [pageWrites, riscWords, encode, e1]
        · rw [List.getElem?_append_right (by omega), hl',
            show 2 * (2 * k + 1) + 1 - 4 * k = 3 by omega]
          simp [pageWrites, riscWords, encode, e1]

/-- Word `1 + k` of the image: a word of the `WRITE`s, then of the `JUMP`. -/
theorem imageWords_getElem?_succ (s : State) (k : Nat) :
    (imageWords s)[1 + k]? =
      if k < 4 * s.params.pageCount then
        (((List.range s.params.pageCount).flatMap (pageWrites s)).flatMap riscWords)[k]?
      else [0x70000000#32, s.progBase + 4][k - 4 * s.params.pageCount]? := by
  rw [imageWords_eq, Nat.add_comm, List.getElem?_cons_succ]
  split
  · rw [List.getElem?_append_left (by rw [pageWrites_words_length]; omega)]
  · rw [List.getElem?_append_right (by rw [pageWrites_words_length]; omega), pageWrites_words_length]

/-- The four bytes of a word of the image, where the image is in memory. -/
theorem State.hasImage.physBytes_four {s : State} (h : s.hasImage) {k : Nat} {w : Word}
    (hk : (imageWords s)[k]? = some w) :
    s.physBytes (s.progBase.toNat + 4 * k) 4 = bytesOfWord w := by
  have hb : ∀ j b, j < 4 → (bytesOfWord w)[j]? = some b →
      s.physByte (s.progBase.toNat + 4 * k + j) = b := by
    intro j b hj hw
    have := h (4 * k + j) b (by
      simp only [imageBytes]; rw [flatMap_bytes_getElem? _ _ _ hj, hk]; simpa using hw)
    simp only [State.physByte, Nat.add_assoc]; rw [this]; rfl
  simp only [State.physBytes, List.range_succ_eq_map, List.range_zero, List.map_cons, List.map_nil]
  simp only [bytesOfWord] at hb ⊢
  rw [hb 0 _ (by omega) rfl, hb _ _ (by omega) rfl, hb _ _ (by omega) rfl, hb _ _ (by omega) rfl]

/-- The eight bytes of two words of the image. -/
theorem State.hasImage.physBytes_eight {s : State} (h : s.hasImage) {k : Nat} {w w' : Word}
    (hk : (imageWords s)[k]? = some w) (hk' : (imageWords s)[k + 1]? = some w') :
    s.physBytes (s.progBase.toNat + 4 * k) 8 = bytesOfWord w ++ (bytesOfWord w' ++ []) := by
  rw [State.physBytes_add s _ 4 4, h.physBytes_four hk, Nat.add_assoc,
    show 4 * k + 4 = 4 * (k + 1) by omega, h.physBytes_four hk']
  simp

/-! ### The memory map -/

/-- What a legal memory map gives (20_memory.md R64 (a), (b)). -/
theorem State.mapOk_regions {s : State} (h : s.mapOk = true) :
    s.pageAddr.length = s.params.pageCount ∧
    s.progBase.toNat + progSize s.params ≤ 2 ^ 32 ∧
    (∀ i, i < s.params.pageCount →
      (s.page i).toNat + s.params.pageSize ≤ 2 ^ 32 ∧ s.page i ∈ s.pageAddr) ∧
    ∀ a ∈ s.pageAddr, s.progBase.toNat + progSize s.params ≤ a.toNat ∨
      a.toNat + s.params.pageSize ≤ s.progBase.toNat := by
  simp only [State.mapOk, Bool.and_eq_true, decide_eq_true_eq, State.regions, List.all_cons,
    List.all_map, List.pairwise_cons, disjointRegions] at h
  obtain ⟨⟨h1, h2, h3⟩, h4, _⟩ := h
  simp only [List.all_eq_true, Function.comp, decide_eq_true_eq] at h3
  have hm : ∀ i, i < s.params.pageCount → s.page i ∈ s.pageAddr := by
    intro i hi
    have : i < s.pageAddr.length := by omega
    simp [State.page, this]
  exact ⟨h1, h2, fun i hi => ⟨h3 _ (hm i hi), hm i hi⟩, fun a ha => h4 _ (List.mem_map_of_mem ha)⟩

/-- Where eight bytes at `RPC` can be fetched, the fetch decodes them. -/
theorem State.fetch_eight {s : State} (h1 : s.rpc.toNat % 4 = 0)
    (h2 : s.inProgram s.rpc.toNat 8 = true) :
    s.fetch = (decodeBytes (s.physBytes s.rpc.toNat 8)).map Prod.fst := by
  simp [State.fetch, State.fetchWindow, h1, h2]

/-! ### What running the generated program depends on -/

/-- The image depends on the sizes and the address registers alone. -/
theorem imageBytes_congr {s t : State} (hp : t.params = s.params) (hb : t.progBaseHi = s.progBaseHi)
    (ha : t.pageAddr = s.pageAddr) : imageBytes t = imageBytes s := by
  have hw : pageWrites t = pageWrites s := by funext i; simp [pageWrites, State.page, hp, ha]
  simp only [imageBytes, imageWords, programOf, hw, hp, State.progBase, hb]

/-- The image fits the program region (41_generator.md R142). -/
theorem imageBytes_length_le {s : State} (h : s.params.valid) :
    (imageBytes s).length ≤ progSize s.params := by
  simp only [imageBytes, flatMap_bytes_length, imageWords_length, progSize]
  have := h.2.1; omega

/-- The memory map depends on the sizes and the address registers alone. -/
theorem State.mapOk_congr {s t : State} (hp : t.params = s.params)
    (hb : t.progBaseHi = s.progBaseHi) (ha : t.pageAddr = s.pageAddr) : t.mapOk = s.mapOk := by
  have hr : t.regions = s.regions := by simp only [State.regions, State.progBase, hp, hb, ha]
  rw [Bool.eq_iff_iff]
  simp only [State.mapOk, hr, hp, ha, Bool.and_eq_true, decide_eq_true_eq]

/-- A step that leaves the sizes, the address registers and the program region alone keeps the
generated program, wherever it leaves the producer (10_state.md R41). -/
theorem Producing.move {s t : State} {src0 src1 : Nat} (h : Producing s src0)
    (hp : t.params = s.params) (hb : t.progBaseHi = s.progBaseHi) (ha : t.pageAddr = s.pageAddr)
    (hr : ∀ x, s.progBase.toNat ≤ x → x < s.progBase.toNat + progSize s.params →
      t.phys.read x = s.phys.read x)
    (he : t.riscErr = false)
    (hpos : (∃ n d, InFlight t src1 n d) ∨ ∃ n, BetweenWrites t src1 n) : Producing t src1 := by
  have eb : t.progBase = s.progBase := by simp [State.progBase, hb]
  refine ⟨hp ▸ h.sizes, State.mapOk_congr hp hb ha ▸ h.map, fun k b hk => ?_, he, hpos⟩
  rw [imageBytes_congr hp hb ha] at hk
  have hlt : k < (imageBytes s).length := (List.getElem?_eq_some_iff.mp hk).1
  have hl := imageBytes_length_le h.sizes
  rw [eb, hr _ (by omega) (by omega)]
  exact h.image k b hk

end Machine

end Sys2Proof
end

