-- ==== Sys2Proof/Tests/Slice0.lean ====
section
/-! SUPPORT. Tests: the refusals of WellFormed, words written out from the encoding tables
(30_encoding.md) and the vectors of 95_test_vectors.md, and for every statement of Obligations.lean
that has hypotheses a concrete state that meets them together. -/

namespace Sys2Proof.Tests

open Sys2Proof Sys2Proof.Machine

/-! ## States the tests start from -/

/-- The state a step leaves; the reset state if it leaves none. -/
def after (o : Host.Outcome State Fault Refusal) : State :=
  match o with
  | .next t => t
  | .fault _ => State.reset
  | .refused _ => State.reset

/-- Smallest page and ring, vector 2.2 (c): `PROG_BASE = 0x3000`, `PAGE_ADDR = (0x8000, 0x9000)`. -/
def ring : State :=
  { State.resetWith { pageSize := 12, pageCount := 2, nsess := 1 } with
    progBaseHi := 0xC00
    pageAddr := [0x8000, 0x9000]
    samples := [0x39, 0x3A] }

/-- The start state of section 2.1, for one fetch: words at an address of the program region. -/
def fetching (rpc : PhysPtr) (ws : List Word) : State :=
  { ring.physWriteBytes rpc.toNat (ws.flatMap bytesOfWord) with
    rpc := rpc, run := true, gpcnt := 3, schedule := [.producer] }

/-- A `WRITE` in flight with the producer next. -/
def inFlight (addr : PhysPtr) (left : BitVec 12) (cc : BitVec 2) (irq : Bool) : State :=
  { ring with
    pw := { active := true, addr := addr, left := left, cc := cc, irq := irq }
    gpcnt := 1, schedule := [.producer] }

/-- Slot 0 open, its engine in some phase, the engine next. -/
def opened (e : ReadEngine) : State :=
  { ring with
    sess := [{ valid := true, pos := 0, initialPage := 1 }]
    rd := [e]
    schedule := [.engine 0] }

/-- An idle engine of the ring. -/
def idleEngine : ReadEngine := ReadEngine.idle 12

/-- An engine about to move a chunk of 5 bytes of page 1 to DST `0x100`. -/
def busyEngine (p : Phase) (cidx : Nat) : ReadEngine :=
  { idleEngine with phase := p, rem := 5, dptr := 0x100, tgt := 1, hwp := 0, clen := 5, cidx := cidx }

/-- The ring with its program generated, started, and the producer next. -/
def producing : State :=
  { after (exec (.generate 0) ring) with rpc := 0x3000, run := true, schedule := [.producer] }

/-! ## WellFormed refuses the ill-formed terms (30_encoding.md R98) -/

theorem test_wf_write_cc2 : (Instr.write false 0b10 8 0).wf = false := by decide

theorem test_wf_jump_misaligned : (Instr.jump 0x1006).wf = false := by decide

theorem test_wf_write_max : (Instr.write true 0b11 0xFFF 0xFFFFFFFF).wf = true := by decide

/-! ## Decoding of hand-written words (95_test_vectors.md 2.1, 2.2, 2.5) -/

theorem test_decode_sync : decodeTableWord 32 0x80000000 = some .sync := by decide

/-- Row 2: bits [27:0] of a `SYNC` are ignored. -/
theorem test_decode_sync_ignored : decodeTableWord 32 0x8FFFFFFF = some .sync := by decide

/-- Row 6: `10010008 00010308`, word 1 in bits 63..32 of the table's numbering. -/
theorem test_decode_write :
    decodeTableWord 64 0x0001030810010008 = some (.write false 0b01 8 0x00010308) := by decide

/-- Row 10: bits 27 and 26 are reserved and ignored, bit 24 is `IRQ`. -/
theorem test_decode_write_irq :
    decodeTableWord 64 0x000103081D010008 = some (.write true 0b01 8 0x00010308) := by decide

/-- Row 13: `CC = 10` is illegal. -/
theorem test_decode_write_cc2 : decodeTableWord 64 0x0001030810020008 = none := by decide

/-- Row 14. -/
theorem test_decode_jump : decodeTableWord 64 0x0000100470000000 = some (.jump 0x1004) := by decide

/-- Row 16: the target is not a multiple of 4. -/
theorem test_decode_jump_misaligned : decodeTableWord 64 0x0000100670000000 = none := by decide

/-- Rows 18 and 19: opcodes 0 and 2. -/
theorem test_decode_illegal :
    decodeBytes [0, 0, 0, 0] = .error .riscOpcode ∧
    decodeBytes [0, 0, 0, 0x20] = .error .riscOpcode := by decide

/-- 20_memory.md R68: word 0 of a `WRITE` as memory holds it, lowest address first. -/
theorem test_decode_bytes :
    decodeBytes [0x08, 0x00, 0x01, 0x10, 0x08, 0x03, 0x01, 0x00, 0xEE] =
      .ok (.write false 0b01 8 0x00010308, [0xEE]) := by decide

/-- Row 2.5.2: `NB` of an `OPEN` is ignored. -/
theorem test_decode_open :
    decodeTableWord 128 0x01800001000000000000000000000000 = some (.openSession 1) := by decide

/-- Row 2.5.14. -/
theorem test_decode_read :
    decodeTableWord 128 0x0280000000000020FFFFFFFFFFFFFFF0 =
      some (.read true 0 0x20 0xFFFFFFFFFFFFFFF0) := by decide

theorem test_decode_close :
    decodeTableWord 128 0x03000001000000000000000000000000 = some (.closeSession 1) := by decide

/-- 2.2: junk in the ignored fields of a `GENERATE`. -/
theorem test_decode_generate :
    decodeTableWord 128 0x0480FFFF12345678000000000000BEEF = some (.generate 0xFFFF) := by decide

/-- Row 2.5.6: the opcode is checked before the reserved field. -/
theorem test_decode_bad_command :
    decodeCommand 0x00010009000000000000000000000000#128 = .error .cmdOpcode ∧
    decodeCommand 0x01010002000000000000000000000000#128 = .error .cmdReserved := by decide

/-- 2.2 (c): the encoder writes the image word for word. -/
theorem test_image_smallest :
    imageWords ring = [0x80000000#32, 0x10000006#32, 0x8000#32, 0x10010006#32, 0x8006#32,
      0x10000006#32, 0x9000#32, 0x10030006#32, 0x9006#32, 0x70000000#32, 0x3004#32] := by decide

/-! ## One step of each instruction -/

/-- 2.1 row 1, from reset through the fetch. -/
theorem test_step_sync : (after (step (State.reset.withFetchWord 32 0x80000000))).rpc = 4 := by decide

/-- 2.1 row 3. -/
theorem test_step_write :
    (after (step (fetching 0x3004 [0x10000008#32, 0x00010300#32]))).pw =
      { active := true, addr := 0x10300, left := 8, cc := 0b00, irq := false } := by decide

/-- 2.1 row 13: `CC = 10` raises `RiscError` and `RPC` stays. -/
theorem test_step_write_cc2 :
    (after (step (fetching 0x3004 [0x10020008#32, 0x00010308#32]))).riscErr = true ∧
    (after (step (fetching 0x3004 [0x10020008#32, 0x00010308#32]))).rpc = 0x3004 := by decide

/-- 2.1 row 14. -/
theorem test_step_jump :
    (after (step (fetching 0x3024 [0x70000000#32, 0x00003004#32]))).rpc = 0x3004 := by decide

/-- 2.1 row 17: the first step takes a target outside the program region. -/
theorem test_step_jump_outside :
    (after (step (fetching 0x3024 [0x70000000#32, 0x00002000#32]))).rpc = 0x2000 := by decide

/-- 2.1 row 4: the first of the transfer steps. -/
theorem test_transfer :
    (after (step (inFlight 0x9000 8 0b00 false))).physByte 0x9000 = 0x39 ∧
    (after (step (inFlight 0x9000 8 0b00 false))).pw.addr = 0x9001 := by decide

/-- 2.1 row 9: end of list with the interrupt. -/
theorem test_completion :
    (after (step (inFlight 0x900C 0 0b11 true))).gpcnt = 0 ∧
    (after (step (inFlight 0x900C 0 0b11 true))).intstat = true := by decide

/-- 2.5 row 1, the counter at 0 (2.3: `initial_page_of(0) = P - 1`). -/
theorem test_open : (after (exec (.openSession 0) ring)).responses = [0x0000000000000001#64] := by decide

/-- 2.5 row 4: `BAD_SID`. -/
theorem test_open_bad_sid :
    (after (exec (.openSession 2) ring)).responses = [0x8000000200000003#64] := by decide

/-- 2.5 row 10. -/
theorem test_close :
    (after (exec (.closeSession 0) (opened idleEngine))).responses = [0#64] ∧
    ((after (exec (.closeSession 0) (opened idleEngine))).session 0).valid = false := by decide

/-- 2.5 row 9: `NOT_OPEN`. -/
theorem test_close_not_open :
    (after (exec (.closeSession 0) ring)).responses = [0x8000000000000004#64] := by decide

/-- 2.5 row 11: caught up and non-blocking. -/
theorem test_read_caught_up :
    (after (exec (.read true 0 16 0x90000000) (opened idleEngine))).responses = [0#64] := by decide

/-- 2.5 row 14: `DST_OVERFLOW`. -/
theorem test_read_dst_overflow :
    (after (exec (.read true 0 32 0xFFFFFFFFFFFFFFF0) (opened idleEngine))).responses =
      [0x8000000000000008#64] := by decide

/-- 2.2 (c): a word of the image, and its response. -/
theorem test_generate :
    (after (exec (.generate 0) ring)).wordAt 0x301C = 0x10030006#32 ∧
    (after (exec (.generate 0) ring)).responses = [0x0000000000000006#64] := by decide

/-- 2.2 (f): slack of the region becomes 0 whatever it held. -/
theorem test_generate_slack :
    (after (exec (.generate 0)
      { ring with params := { pageSize := 16, pageCount := 2, nsess := 1 } })).physByte 0x302C = 0 := by
  decide

/-! ## Steps of the other agents -/

/-- 3.3 step 5: a chunk the caller does not admit. -/
theorem test_fault :
    (after (step (opened (busyEngine .cdeliver 5)))).responses = [0x4000000000000000#64] := by decide

/-- 2.6 rows 11 to 13. -/
theorem test_fmt :
    coerceFmt 1 = true ∧ coerceFmt 7 = false ∧ coerceFmt 0x101 = false := by decide

/-- 2.6 row 15. -/
theorem test_prog_base :
    (after (step { ring with schedule := [.regWrite 0x1C 0x1003] })).progBase = 0x1000 := by decide

/-- 2.3: `P = 8`, raw 0, 4, 9 and `0xFFFFFFFF`. -/
theorem test_tracker :
    lastCompletedPage 8 0 = 7 ∧ lastCompletedPage 8 9 = 8 ∧ initialPageOf 8 0 = 7 ∧
    initialPageOf 8 4 = 3 ∧ initialPageOf 8 9 = 0 ∧ initialPageOf 8 0xFFFFFFFF = 6 := by decide

/-- 2.4: set T and the parameters that are no power of two. -/
theorem test_pagemap :
    pagemap Params.setT 3 79 = (7, 15) ∧ pagemap Params.setT 3 80 = (0, 0) ∧
    pagemap Params.setT 3 (2 ^ 64 - 1) = (2, 15) ∧
    pagemap { pageSize := 6, pageCount := 5, nsess := 1 } 4 29 = (3, 5) ∧
    chunkLen Params.setT 20 40 = 12 := by decide

/-! ## States that meet the hypotheses of the statements -/

/-- The image is in memory, checked byte by byte. -/
theorem hasImage_of_check (s : State)
    (h : ((imageBytes s).zipIdx.all fun x => decide (s.phys.read (s.progBase.toNat + x.2) = some x.1)) =
      true) : s.hasImage := by
  intro k b hk
  have hm : (b, k) ∈ (imageBytes s).zipIdx := List.mem_zipIdx_iff_getElem?.mpr hk
  simpa using List.all_eq_true.mp h _ hm

theorem ring_shape : ShapeInv ring := ⟨by decide, rfl, rfl, rfl⟩

theorem opened_shape (e : ReadEngine) : ShapeInv (opened e) :=
  ⟨show Params.valid { pageSize := 12, pageCount := 2, nsess := 1 } by decide, rfl, rfl, rfl⟩

/-- The chunk of 5 bytes zeroed, its commit next. -/
theorem commit_inv : (opened (busyEngine .czero 5)).Inv := by
  refine ⟨⟨by decide, by decide, by decide, by decide⟩, opened_shape _,
    ⟨by decide, by decide, by decide, by decide, by decide⟩, fun i hi => ?_⟩
  obtain rfl : i = 0 := Nat.lt_one_iff.mp hi
  exact ⟨rfl, by decide, fun _ =>
    ⟨rfl, by decide, by decide, by decide, by decide, by decide, by decide, by decide⟩⟩

/-- The same chunk at the very end of DST. -/
def lastChunk : State := opened { busyEngine .czero 5 with dptr := 0xFFFFFFFFFFFFFFFB }

theorem lastChunk_inv : lastChunk.Inv := by
  refine ⟨⟨by decide, by decide, by decide, by decide⟩, opened_shape _,
    ⟨by decide, by decide, by decide, by decide, by decide⟩, fun i hi => ?_⟩
  obtain rfl : i = 0 := Nat.lt_one_iff.mp hi
  exact ⟨rfl, by decide, fun _ =>
    ⟨rfl, by decide, by decide, by decide, by decide, by decide, by decide, by decide⟩⟩

/-- The chunk of 5 bytes not yet staged, a caller that admits it, and thirteen engine steps ahead. -/
def aboutToCopy : State :=
  { opened (busyEngine .cread 0) with
    dstAdmit := [{ first := 0, last := 0x100, minLen := 1, maxLen := 5, limit := 0x105 }]
    schedule := List.replicate 13 (.engine 0) }

theorem copy_inv : aboutToCopy.Inv := by
  refine ⟨⟨by decide, by decide, by decide, by decide⟩, ⟨by decide, rfl, rfl, rfl⟩,
    ⟨by decide, by decide, by decide, by decide, by decide⟩, fun i hi => ?_⟩
  obtain rfl : i = 0 := Nat.lt_one_iff.mp hi
  exact ⟨rfl, by decide, fun _ =>
    ⟨rfl, by decide, by decide, by decide, by decide, by decide, by decide, by decide⟩⟩

theorem producing_position : BetweenWrites producing 0 0 := ⟨rfl, .inl ⟨rfl, by decide⟩, rfl, rfl⟩

theorem producing_holds : Producing producing 0 :=
  ⟨by decide, by decide, hasImage_of_check _ (by decide), rfl, .inr ⟨0, producing_position⟩⟩

/-- The last `WRITE` of the first lap in flight with `d` of its six bytes moved. -/
def lastWrite (d : Nat) : State :=
  { producing with
    pw := { active := true, addr := BitVec.ofNat 33 (0x9006 + d), left := BitVec.ofNat 12 (6 - d),
            cc := 0b11, irq := false }
    rpc := 0x3024, srcIdx := 18 + d, gpcnt := 1 }

theorem lastWrite_position : InFlight (lastWrite 5) 0 3 5 ∧ InFlight (lastWrite 6) 0 3 6 :=
  ⟨⟨rfl, by decide, by decide, by decide, by decide, by decide, by decide, by decide, by decide⟩,
    rfl, by decide, by decide, by decide, by decide, by decide, by decide, by decide, by decide⟩

/-- A state with the sizes, the map and the image of `producing` runs its program too. -/
theorem producing_of {s : State} {src0 : Nat} (hp : s.params = producing.params)
    (hb : s.progBaseHi = producing.progBaseHi) (hpa : s.pageAddr = producing.pageAddr)
    (hm : s.phys = producing.phys) (he : s.riscErr = false)
    (h : (∃ n d, InFlight s src0 n d) ∨ ∃ n, BetweenWrites s src0 n) : Producing s src0 :=
  producing_holds.move hp hb hpa (fun _ _ _ => by rw [hm]) he h

/-- The lap done, the producer at the `JUMP` or, after it, at the first `WRITE` again. -/
def lapDone (rpc : PhysPtr) : State := { producing with rpc := rpc, srcIdx := 24 }

/-- Stopped with the last `WRITE` still in flight, a start action next. -/
def draining : State := { lastWrite 5 with run := false, schedule := [.regWrite 0x00 1] }

theorem draining_holds : Producing draining 0 := by
  obtain ⟨a, b, c, d, e, f, g, h, i⟩ := lastWrite_position.1
  exact producing_of rfl rfl rfl rfl rfl (.inl ⟨3, 5, a, b, c, d, e, f, g, h, i⟩)

theorem witness_DecodeOfEncodeIsIdentity : (Instr.write true 0b11 0xFFF 0xFFFFFFFF).wf = true ∧
    (Instr.jump 0xFFFFFFFC).wf = true := by decide

/-- Eight bytes at `RPC`; and four, the last word of the region. -/
theorem witness_StepRunsTheFetchedInstruction :
    (let s := fetching 0x3024 [0x70000000#32, 0x00003004#32];
      s.nextEvent = .producer ∧ s.riscErr = false ∧ s.pw.active = false ∧ s.run = true ∧
      s.rpc.toNat % 4 = 0 ∧ s.inProgram s.rpc.toNat 8 = true ∧
      decodeBytes (s.physBytes s.rpc.toNat 8) = .ok (.jump 0x3004, [])) ∧
    (let s := fetching 0x3028 [0x80000000#32];
      s.nextEvent = .producer ∧ s.riscErr = false ∧ s.pw.active = false ∧ s.run = true ∧
      s.rpc.toNat % 4 = 0 ∧ s.inProgram s.rpc.toNat 4 = true ∧
      decodeBytes (s.physBytes s.rpc.toNat 4) = .ok (.sync, [])) := by decide

theorem witness_StepRunsTheReceivedCommand :
    { ring with schedule := [.command 0x01000000000000000000000000000000#128] }.nextEvent =
      .command 0x01000000000000000000000000000000#128 ∧
    decodeCommand 0x01000000000000000000000000000000#128 = .ok (.openSession 0) := by decide

/-- `OPC` 0, 5 and 255; `OPC` 1 and 4 with `RSV` 1 and 127. -/
theorem witness_MalformedCommandsAreRefused :
    { ring with schedule := [.command 0x05000000000000000000000000000000#128] }.nextEvent =
      .command 0x05000000000000000000000000000000#128 ∧
    (0x00010009000000000000000000000000#128).toNat / 2 ^ 120 = 0 ∧
    4 < (0x05000000000000000000000000000000#128).toNat / 2 ^ 120 ∧
    4 < (0xFF000000000000000000000000000000#128).toNat / 2 ^ 120 ∧
    (let w := 0x01010002000000000000000000000000#128;
      1 ≤ w.toNat / 2 ^ 120 ∧ w.toNat / 2 ^ 120 ≤ 4 ∧ w.toNat / 2 ^ 112 % 2 ^ 7 ≠ 0) ∧
    (let w := 0x047F0000000000000000000000000000#128;
      1 ≤ w.toNat / 2 ^ 120 ∧ w.toNat / 2 ^ 120 ≤ 4 ∧ w.toNat / 2 ^ 112 % 2 ^ 7 ≠ 0) := by decide

/-- Each of the six causes, and none. -/
theorem witness_RiscErrorExactlyOnItsCauses :
    (let s := fetching 0x3002 [];
      s.nextEvent = .producer ∧ s.riscErr = false ∧ s.pw.active = false ∧ s.run = true ∧
        s.rpc.toNat % 4 ≠ 0) ∧
    (let s := fetching 0x302C [0x80000000#32];
      s.rpc.toNat % 4 = 0 ∧ s.inProgram s.rpc.toNat 4 = false) ∧
    (let s := fetching 0x3000 [0#32];
      s.inProgram s.rpc.toNat 4 = true ∧ opcodeField (s.wordAt s.rpc.toNat) = 0) ∧
    (let s := fetching 0x3028 [0x10000008#32];
      s.inProgram s.rpc.toNat 4 = true ∧ opcodeField (s.wordAt s.rpc.toNat) = 1 ∧
        s.inProgram (s.rpc.toNat + 4) 4 = false) ∧
    (let s := fetching 0x3024 [0x10020008#32, 0#32];
      s.inProgram (s.rpc.toNat + 4) 4 = true ∧ opcodeField (s.wordAt s.rpc.toNat) = 1 ∧
        ccField (s.wordAt s.rpc.toNat) = 0b10) ∧
    (let s := fetching 0x3024 [0x70000000#32, 0x3006#32];
      opcodeField (s.wordAt s.rpc.toNat) = 7 ∧ (s.wordAt (s.rpc.toNat + 4)).toNat % 4 ≠ 0) ∧
    (let s := fetching 0x3028 [0x80000000#32];
      s.rpc.toNat % 4 = 0 ∧ s.inProgram s.rpc.toNat 4 = true ∧
        opcodeField (s.wordAt s.rpc.toNat) = 8) := by decide

theorem witness_RiscErrorLastsUntilReset :
    (let s := { ring with riscErr := true, schedule := [.regWrite 0x00 1] };
      s.riscErr = true ∧ s.nextEvent ≠ .reset ∧ (after (step s)).run = true) ∧
    (let s := { ring with riscErr := true, run := true, schedule := [.producer] };
      s.riscErr = true ∧ s.nextEvent = .producer) := by decide

/-- The largest `RPC` the second clause speaks of. -/
theorem witness_SyncAdvancesRpcOnly : { ring with rpc := 0x100000000 }.rpc.toNat ≤ 2 ^ 32 := by decide

theorem witness_TransferMovesOneSampleByte :
    (let s := inFlight 0x900B 1 0b00 false;
      s.nextEvent = .producer ∧ s.riscErr = false ∧ s.pw.active = true ∧ s.pw.left ≠ 0 ∧
        s.inRing s.pw.addr.toNat = true) ∧
    (let s := inFlight 0x900C 0xFFF 0b00 false;
      s.nextEvent = .producer ∧ s.riscErr = false ∧ s.pw.active = true ∧ s.pw.left ≠ 0 ∧
        s.inRing s.pw.addr.toNat = false) := by decide

theorem witness_CompletionCountsAndRequests :
    ∀ cc ∈ [0b00#2, 0b01#2, 0b11#2], (let s := inFlight 0x900C 0 cc true;
      s.nextEvent = .producer ∧ s.riscErr = false ∧ s.pw.active = true ∧ s.pw.left = 0 ∧
        s.pw.cc ≠ 0b10#2) := by decide

/-- Two bytes to go, and none, with the producer stopped. -/
theorem witness_WriteInFlightRunsToCompletion :
    (let s := { inFlight 0x900A 2 0b01 true with schedule := List.replicate 3 .producer };
      s.riscErr = false ∧ s.pw.active = true ∧ s.run = false ∧ s.pw.left.toNat = 2 ∧
        s.pw.cc ≠ 0b10#2 ∧ (∀ k, k < 2 → s.inRing (s.pw.addr.toNat + k) = true) ∧
        s.schedule = List.replicate (2 + 1) .producer ++ []) ∧
    (inFlight 0x900C 0 0b00 false).schedule = List.replicate (0 + 1) .producer ++ [] := by decide

/-- The region may end at the end of PHYS. -/
theorem witness_GenerateWritesTheImage :
    (let s := { ring with progBaseHi := 0x3FFFFFF5 };
      s.params.valid ∧ s.producerEnabled = false ∧
        s.progBase.toNat + progSize s.params ≤ 2 ^ 32) := by decide

theorem witness_ImageIsTheTableOfWords : ring.params.valid ∧
    Params.valid { pageSize := 8190, pageCount := 512, nsess := 65536 } := by decide

theorem witness_GenerateWhileRunningIsRefused :
    producing.riscErr = false ∧ producing.run = true ∧
    (inFlight 0x9000 1 0 false).riscErr = false ∧ (inFlight 0x9000 1 0 false).pw.active = true := by
  decide

theorem witness_OpenTakesTheSnapshot : ShapeInv ring ∧
    (0#16).toNat < ring.params.nsess ∧ (ring.session (0#16).toNat).valid = false :=
  ⟨ring_shape, by decide, by decide⟩

theorem witness_CloseReleasesTheSlot : ShapeInv (opened idleEngine) ∧
    (0#16).toNat < (opened idleEngine).params.nsess ∧
    ((opened idleEngine).session (0#16).toNat).valid = true ∧
    ((opened idleEngine).engine (0#16).toNat).phase = .idle :=
  ⟨opened_shape _, by decide, by decide, by decide⟩

/-- The longest request at the end of DST. -/
theorem witness_ReadAcceptLatchesAndStarts : ShapeInv (opened idleEngine) ∧
    (0#16).toNat < (opened idleEngine).params.nsess ∧
    ((opened idleEngine).session (0#16).toNat).valid = true ∧
    ((opened idleEngine).engine (0#16).toNat).phase = .idle ∧
    ((opened idleEngine).session (0#16).toNat).pos.toNat + (0xFFFFFFFF#32).toNat < 2 ^ 64 ∧
    (0xFFFFFFFF00000001#64).toNat + (0xFFFFFFFF#32).toNat ≤ 2 ^ 64 :=
  ⟨opened_shape _, by decide, by decide, by decide, by decide, by decide⟩

/-- Each group of refusals: slot 1 of a block with one slot; a closed slot; an open busy slot; an open
idle slot whose position is at its end, and a caller's range that ends one byte too far. -/
theorem witness_RefusalsFollowTheCheckOrder :
    ring.params.nsess ≤ (1#16).toNat ∧
    ((0#16).toNat < ring.params.nsess ∧ (ring.session (0#16).toNat).valid = false) ∧
    (let s := opened (busyEngine .cread 0);
      (0#16).toNat < s.params.nsess ∧ (s.session (0#16).toNat).valid = true ∧
        (s.engine (0#16).toNat).phase ≠ .idle) ∧
    (let s := { opened idleEngine with
        sess := [{ valid := true, pos := 0xFFFFFFFFFFFFFFFF, initialPage := 1 }] };
      (s.session (0#16).toNat).valid = true ∧ (s.engine (0#16).toNat).phase = .idle ∧
        2 ^ 64 ≤ (s.session (0#16).toNat).pos.toNat + (1#32).toNat) ∧
    (let s := opened idleEngine;
      (s.engine (0#16).toNat).phase = .idle ∧
        ¬2 ^ 64 ≤ (s.session (0#16).toNat).pos.toNat + (2#32).toNat ∧
        2 ^ 64 < (0xFFFFFFFFFFFFFFFF#64).toNat + (2#32).toNat) := by decide

/-- The counter at `PAGE_COUNT`, and one above it. -/
theorem witness_FreshSessionIsCaughtUp : ShapeInv ring ∧
    ({ ring with gpcnt := 2 }.gpcnt.toNat ≤ ring.params.pageCount ∧
      ¬{ ring with gpcnt := 3 }.gpcnt.toNat ≤ ring.params.pageCount) ∧
    (0#16).toNat < ring.params.nsess ∧
    (ring.session (0#16).toNat).valid = false ∧ (ring.engine (0#16).toNat).phase = .idle ∧
    (0xFFFFFFFFFFFFFFF0#64).toNat + (16#32).toNat ≤ 2 ^ 64 :=
  ⟨ring_shape, by decide, by decide, by decide, by decide, by decide⟩

/-- A satisfied request, a readable page, a caught-up page with and without `NB`. -/
theorem witness_LoopStepDecides :
    ∀ e ∈ [{ busyEngine .loop 0 with rem := 0 }, busyEngine .loop 0,
        { busyEngine .loop 0 with hwp := 1, nb := true }, { busyEngine .loop 0 with hwp := 1 }],
      (opened e).nextEvent = .engine 0 ∧ 0 < (opened e).params.nsess ∧
        ((opened e).engine 0).phase = .loop := by decide

theorem witness_PollSamplesTheCounter : ShapeInv (opened (busyEngine .poll 0)) ∧
    (opened (busyEngine .poll 0)).nextEvent = .engine 0 ∧
    0 < (opened (busyEngine .poll 0)).params.nsess ∧
    ((opened (busyEngine .poll 0)).engine 0).phase = .poll :=
  ⟨opened_shape _, rfl, by decide, rfl⟩

/-- The first byte of the chunk, and after its last. -/
theorem witness_StagingStepReadsOneByte :
    (∀ cidx ∈ [0, 5], (opened (busyEngine .cread cidx)).nextEvent = .engine 0 ∧
      0 < (opened (busyEngine .cread cidx)).params.nsess ∧
      ((opened (busyEngine .cread cidx)).engine 0).phase = .cread ∧
      ((opened (busyEngine .cread cidx)).engine 0).tgt.toNat < ring.params.pageCount ∧
      (ring.page 1).toNat + ring.params.pageSize ≤ 2 ^ 32 ∧
      ((opened (busyEngine .cread cidx)).session 0).pos.toNat % ring.params.pageSize +
        ((opened (busyEngine .cread cidx)).engine 0).clen ≤ ring.params.pageSize) ∧
    ShapeInv (opened (busyEngine .cread 0)) := ⟨by decide, opened_shape _⟩

theorem witness_DeliveryWritesTheWholeChunk :
    (let s := { aboutToCopy with rd := [busyEngine .cdeliver 5] };
      s.nextEvent = .engine 0 ∧ 0 < s.params.nsess ∧ (s.engine 0).phase = .cdeliver ∧
        s.admits (s.engine 0).dptr.toNat (s.engine 0).clen = true) ∧
    ShapeInv { aboutToCopy with rd := [busyEngine .cdeliver 5] } :=
  ⟨by decide, by decide, rfl, rfl, rfl⟩

/-- The last byte of the chunk. -/
theorem witness_ZeroStepClearsOneByte :
    (let s := opened (busyEngine .czero 4);
      s.nextEvent = .engine 0 ∧ 0 < s.params.nsess ∧ (s.engine 0).phase = .czero ∧
        (s.engine 0).tgt.toNat < s.params.pageCount ∧
        (s.page (s.engine 0).tgt.toNat).toNat + s.params.pageSize ≤ 2 ^ 32 ∧
        (s.session 0).pos.toNat % s.params.pageSize + (s.engine 0).clen ≤ s.params.pageSize ∧
        (s.engine 0).cidx < (s.engine 0).clen) ∧
    ShapeInv (opened (busyEngine .czero 4)) := ⟨by decide, opened_shape _⟩

theorem witness_CallerBufferFaultEndsTheRead : ShapeInv (opened (busyEngine .cdeliver 5)) ∧
    (opened (busyEngine .cdeliver 5)).nextEvent = .engine 0 ∧
    0 < (opened (busyEngine .cdeliver 5)).params.nsess ∧
    ((opened (busyEngine .cdeliver 5)).engine 0).phase = .cdeliver ∧
    (opened (busyEngine .cdeliver 5)).admits 0x100 5 = false :=
  ⟨opened_shape _, rfl, by decide, rfl, by decide⟩

/-- In the middle of DST, and a chunk that ends where DST ends. -/
theorem witness_CommitAdvancesByTheChunk :
    ((opened (busyEngine .czero 5)).Inv ∧
      (opened (busyEngine .czero 5)).nextEvent = .engine 0 ∧
      0 < (opened (busyEngine .czero 5)).params.nsess ∧
      ((opened (busyEngine .czero 5)).engine 0).phase = .czero ∧
      ((opened (busyEngine .czero 5)).engine 0).cidx =
        ((opened (busyEngine .czero 5)).engine 0).clen) ∧
    lastChunk.Inv ∧ lastChunk.nextEvent = .engine 0 ∧ (lastChunk.engine 0).phase = .czero ∧
      (lastChunk.engine 0).cidx = (lastChunk.engine 0).clen ∧
      (lastChunk.engine 0).dptr.toNat + (lastChunk.engine 0).clen = 2 ^ 64 :=
  ⟨⟨commit_inv, rfl, by decide, rfl, rfl⟩, lastChunk_inv, rfl, rfl, rfl, by decide⟩

theorem witness_ChunkRoundTrip : aboutToCopy.Inv ∧ 0 < aboutToCopy.params.nsess ∧
    (aboutToCopy.engine 0).phase = .cread ∧ (aboutToCopy.engine 0).cidx = 0 ∧
    0x9000 = (aboutToCopy.page (aboutToCopy.engine 0).tgt.toNat).toNat +
      (aboutToCopy.session 0).pos.toNat % aboutToCopy.params.pageSize ∧
    (aboutToCopy.page (aboutToCopy.engine 0).tgt.toNat).toNat + aboutToCopy.params.pageSize ≤
      2 ^ 32 ∧
    aboutToCopy.admits (aboutToCopy.engine 0).dptr.toNat (aboutToCopy.engine 0).clen = true ∧
    aboutToCopy.schedule =
      List.replicate (2 * (aboutToCopy.engine 0).clen + 3) (.engine 0) ++ [] :=
  ⟨copy_inv, by decide, by decide, by decide, by decide, by decide, by decide, by decide⟩

/-- A caught-up blocking read with two rounds of its engine ahead. -/
def spinning : State :=
  { opened { busyEngine .loop 0 with hwp := 1 } with schedule := List.replicate 4 (.engine 0) }

theorem witness_BlockingReadSpinsWhileNothingArrives : ShapeInv spinning ∧
    0 < spinning.params.nsess ∧ (spinning.engine 0).phase = .loop ∧ (spinning.engine 0).rem ≠ 0 ∧
    (spinning.engine 0).nb = false ∧ (spinning.engine 0).tgt = (spinning.engine 0).hwp ∧
    spinning.hwPage = (spinning.engine 0).hwp ∧
    spinning.schedule = List.replicate (2 * 2) (.engine 0) ++ [] :=
  ⟨⟨by decide, rfl, rfl, rfl⟩, by decide, rfl, by decide, rfl, rfl, by decide, rfl⟩

theorem witness_StartLoadsRpcAndClearsTheCounter :
    (let s := { ring with schedule := [.regWrite 0x00 3] };
      s.nextEvent = .regWrite 0x00 3 ∧ (3#32).toNat % 2 = 1 ∧ s.run = false ∧ s.mapOk = true) := by
  decide

/-- A stop; a repeated start; a repeated stop. -/
theorem witness_StopClearsRunOnly :
    { producing with schedule := [.regWrite 0x00 0xFFFFFFFE] }.nextEvent =
      .regWrite 0x00 0xFFFFFFFE ∧ (0xFFFFFFFE#32).toNat % 2 = 0 ∧
    (1#32).toNat % 2 = (if producing.run then 1 else 0) ∧
    (0#32).toNat % 2 = (if ring.run then 1 else 0) := by decide

theorem witness_InterruptAndFormatWrites :
    { ring with schedule := [.regWrite 0x0C 1] }.nextEvent = .regWrite 0x0C 1 ∧
    { ring with schedule := [.regWrite 0x10 1] }.nextEvent = .regWrite 0x10 1 ∧
    { ring with schedule := [.regWrite 0x14 0x101] }.nextEvent = .regWrite 0x14 0x101 := by decide

theorem witness_ReadOnlyRegistersIgnoreWrites :
    ∀ off ∈ [0x04, 0x08, 0x18], (off = 0x04 ∨ off = 0x08 ∨ off = 0x18) ∧
      { ring with schedule := [.regWrite off 0] }.nextEvent = .regWrite off 0 := by decide

theorem witness_AddressRegisterWrites : ShapeInv ring ∧ ring.live = false ∧
    { ring with schedule := [.regWrite 0x1C 0x1003] }.nextEvent = .regWrite 0x1C 0x1003 ∧
    1 < ring.params.pageCount ∧
    { ring with schedule := [.regWrite 0x104 0x10300] }.nextEvent = .regWrite (0x100 + 4 * 1) 0x10300 :=
  ⟨ring_shape, by decide, by decide, by decide, by decide⟩

theorem witness_AddressRegistersAreFrozenWhileLive :
    producing.live = true ∧ producing.nextEvent ≠ .reset ∧ ∃ t, step producing = .next t :=
  ⟨by decide, by decide, _, rfl⟩

/-- The first and the last register of the page table. -/
theorem witness_RegisterReadsReturnTheMap :
    { ring with schedule := [.regRead 0x00] }.nextEvent = .regRead 0x00 ∧
    0 < ring.params.pageCount ∧ (0x8000#32) = ring.page 0 ∧
    1 < ring.params.pageCount ∧ (0x9000#32) = ring.page 1 ∧
    { ring with schedule := [.regRead 0x104] }.nextEvent = .regRead (0x100 + 4 * 1) := by decide

/-- The edges of the three ranges. -/
theorem witness_OffsetsOffTheMapAreRefused :
    0x02 % 4 ≠ 0 ∧ (0x20 ≤ 0x20 ∧ 0x20 < 0x100) ∧ (0x20 ≤ 0xFC ∧ 0xFC < 0x100) ∧
    0x100 + 4 * ring.params.pageCount ≤ 0x108 ∧
    { ring with schedule := [.regRead 0x20] }.nextEvent = .regRead 0x20 ∧
    { ring with schedule := [.regWrite 0x108 0] }.nextEvent = .regWrite 0x108 0 := by decide

theorem witness_OpenUnmasksAStaleRequest :
    (0#16).toNat < ring.params.nsess ∧ (ring.session (0#16).toNat).valid = false ∧
    { ring with intstat := true }.intstat = true := by decide

theorem witness_ResetInputQuiescesTheBlock :
    { opened (busyEngine .cread 3) with schedule := [.reset, .producer] }.nextEvent = .reset ∧
    (after (step { opened (busyEngine .cread 3) with schedule := [.reset, .producer] })).nextEvent =
      .producer ∧
    (after (step { opened (busyEngine .cread 3) with schedule := [.reset, .engine 0] })).nextEvent =
      .engine 0 := by decide

/-- Raw 0, `P`, and the largest one; `P` a power of two. -/
theorem witness_TrackerFunctionsByCases : 2 ≤ 8 ∧ 0 < 2 ^ 32 ∧ (1 ≤ 8 ∧ 8 ≤ 8) ∧ 7 < 8 ∧
    0xFFFFFFFF < 2 ^ 32 ∧ 3 ≤ 32 ∧ 8 = 2 ^ 3 := by decide

/-- Inside a page up to its last byte, and across its end. -/
theorem witness_PagemapLaws : Params.setT.valid ∧ 7 < Params.setT.pageCount ∧
    (pagemap Params.setT 7 5).2 + 10 < Params.setT.pageSize ∧
    (pagemap Params.setT 7 5).2 + 11 = Params.setT.pageSize := by decide

theorem witness_ChunkStaysInOnePage : Params.setT.valid ∧ 0 < 100 ∧
    0 < chunkLen Params.setT 15 100 := by decide

/-- One whole lap behind, and one page. -/
theorem witness_CaughtUpIffLagIsWholeLaps : Params.setT.valid ∧ 4 ≤ 12 ∧
    lag Params.setT 12 4 0 % 8 = 0 ∧ lag Params.setT 12 4 112 % 8 = 1 := by decide

theorem witness_StepKeepsTheInvariant : (opened (busyEngine .czero 5)).Inv ∧
    ∃ t, step (opened (busyEngine .czero 5)) = .next t :=
  ⟨commit_inv, _, rfl⟩

/-- The last byte of a cluster and its completion; the `SYNC`, the `JUMP` and a `WRITE` next; stopped and
drained. -/
theorem witness_GeneratedProgramRunsForEver :
    (Producing producing 0 ∧ producing.nextEvent = .producer ∧ BetweenWrites producing 0 0 ∧
      producing.run = true) ∧
    (Producing (lastWrite 5) 0 ∧ (lastWrite 5).nextEvent = .producer ∧
      InFlight (lastWrite 5) 0 3 5 ∧ 23 = 3 * clusterSize (lastWrite 5).params + 5) ∧
    (Producing (lastWrite 6) 0 ∧ (lastWrite 6).nextEvent = .producer ∧
      InFlight (lastWrite 6) 0 3 6) ∧
    (Producing (lapDone 0x3024) 0 ∧ (lapDone 0x3024).nextEvent = .producer ∧
      BetweenWrites (lapDone 0x3024) 0 4) ∧
    (Producing (lapDone 0x3004) 0 ∧ BetweenWrites (lapDone 0x3004) 0 4 ∧
      (lapDone 0x3004).rpc.toNat = (lapDone 0x3004).writeAt (4 % (2 * ring.params.pageCount))) ∧
    (Producing { producing with run := false } 0 ∧ producing.pw.active = false) := by
  have b1 : BetweenWrites (lapDone 0x3024) 0 4 :=
    ⟨rfl, .inr (.inr ⟨by decide, by decide, by decide⟩), by decide, by decide⟩
  have b2 : BetweenWrites (lapDone 0x3004) 0 4 :=
    ⟨rfl, .inr (.inl (by decide)), by decide, by decide⟩
  have b3 : BetweenWrites { producing with run := false } 0 0 :=
    ⟨rfl, .inl ⟨rfl, by decide⟩, rfl, rfl⟩
  exact ⟨⟨producing_holds, rfl, producing_position, rfl⟩,
    ⟨producing_of rfl rfl rfl rfl rfl (.inl ⟨_, _, lastWrite_position.1⟩), rfl, lastWrite_position.1,
      by decide⟩,
    ⟨producing_of rfl rfl rfl rfl rfl (.inl ⟨_, _, lastWrite_position.2⟩), rfl, lastWrite_position.2⟩,
    ⟨producing_of rfl rfl rfl rfl rfl (.inr ⟨_, b1⟩), rfl, b1⟩,
    ⟨producing_of rfl rfl rfl rfl rfl (.inr ⟨_, b2⟩), b2, by decide⟩,
    producing_of rfl rfl rfl rfl rfl (.inr ⟨_, b3⟩), rfl⟩

/-- A start action while draining; the producer's own step; the step of another agent. -/
theorem witness_NoAgentDisturbsTheGeneratedProgram :
    (Producing draining 0 ∧ draining.producerEnabled = true ∧ draining.nextEvent = .regWrite 0x00 1 ∧
      draining.run = false ∧ (1#32).toNat % 2 = 1 ∧ ∃ t, step draining = .next t) ∧
    (Producing producing 0 ∧ producing.producerEnabled = true ∧ producing.nextEvent = .producer ∧
      ∃ t, step producing = .next t) ∧
    ({ producing with schedule := [.hostStore 0x100 [1]] }.nextEvent = .hostStore 0x100 [1] ∧
      ∃ t, step { producing with schedule := [.hostStore 0x100 [1]] } = .next t) :=
  ⟨⟨draining_holds, by decide, rfl, rfl, by decide, _, rfl⟩, ⟨producing_holds, by decide, rfl, _, rfl⟩,
    rfl, _, rfl⟩

/-- The generated state not yet started, the start action next. -/
def readyToStart : State := { producing with run := false, schedule := [.regWrite 0x00 1] }

theorem witness_StartBeginsTheGeneratedProgram : readyToStart.params.valid ∧
    readyToStart.mapOk = true ∧ readyToStart.riscErr = false ∧ readyToStart.hasImage ∧
    readyToStart.run = false ∧ readyToStart.nextEvent = .regWrite 0x00 1 ∧ (1#32).toNat % 2 = 1 :=
  ⟨by decide, by decide, rfl, hasImage_of_check _ (by decide), rfl, rfl, by decide⟩

theorem witness_GenerateMakesTheImage :
    ring.params.valid ∧ ∃ t, exec (.generate 0) ring = .next t := ⟨by decide, _, rfl⟩

/-- The completion of a second half, before any issue, and the start action while draining. -/
theorem witness_CounterIsCompletionsModuloPages :
    (Producing (lastWrite 6) 0 ∧ (lastWrite 6).producerEnabled = true ∧
      Agrees ⟨5, [0], 0x9006⟩ (lastWrite 6) ∧ (lastWrite 6).nextEvent ≠ .reset ∧
      ∃ t, step (lastWrite 6) = .next t ∧
        (Ledger.next ⟨5, [0], 0x9006⟩ (lastWrite 6) t).nc = 6) ∧
    (Producing producing 0 ∧ producing.producerEnabled = true ∧ Agrees ⟨0, [0], 0⟩ producing) ∧
    (draining.run = false ∧ draining.nextEvent = .regWrite 0x00 1 ∧ (1#32).toNat % 2 = 1 ∧
      ∃ t, step draining = .next t) :=
  ⟨⟨producing_of rfl rfl rfl rfl rfl (.inl ⟨_, _, lastWrite_position.2⟩), by decide,
      ⟨by decide, by decide⟩, by decide, _, rfl, by decide⟩,
    ⟨producing_holds, by decide, ⟨by decide, by decide⟩⟩, rfl, rfl, by decide, _, rfl⟩

/-- 42_ring_arithmetic.md R169 with a program of the host's own (40_risc_program.md R131): the completion
of a first-half `WRITE` does not count whatever its counter control, that of a second-half `WRITE` with
counter control 0 does. -/
theorem test_ledger_hand_written :
    (Ledger.next ⟨4, [0], 0x9000⟩ (inFlight 0x9006 0 0b01 false)
      (after (step (inFlight 0x9006 0 0b01 false)))).nc = 4 ∧
    (Ledger.next ⟨4, [0], 0x9006⟩ (inFlight 0x900C 0 0b00 false)
      (after (step (inFlight 0x900C 0 0b00 false)))).nc = 5 := by decide

/-- The ring with its slot about to be opened. -/
def aboutToOpen : State := { ring with schedule := [.command 0x01000000000000000000000000000000#128] }

theorem witness_OpenSessionsStartAtLagZero :
    ∃ t, step aboutToOpen = .next t ∧ 0 < aboutToOpen.params.nsess ∧
      (aboutToOpen.session 0).valid = false ∧ (t.session 0).valid = true :=
  ⟨_, rfl, by decide, by decide, by decide⟩

/-- A completion, a start action and a reset that each change the counter. -/
theorem witness_CounterHasThreeWriters :
    (∃ t, step (inFlight 0x900C 0 0b01 false) = .next t ∧
      t.gpcnt ≠ (inFlight 0x900C 0 0b01 false).gpcnt) ∧
    (∃ t, step { ring with gpcnt := 5, schedule := [.regWrite 0x00 1] } = .next t ∧
      t.gpcnt ≠ 5) ∧
    ∃ t, step { ring with gpcnt := 5, schedule := [.reset] } = .next t ∧ t.gpcnt ≠ 5 :=
  ⟨⟨_, rfl, by decide⟩, ⟨_, rfl, by decide⟩, _, rfl, by decide⟩

theorem witness_OpenSessionsOnlyMoveForward : (opened (busyEngine .czero 5)).Inv ∧
    0 < (opened (busyEngine .czero 5)).params.nsess ∧
    ∃ t, step (opened (busyEngine .czero 5)) = .next t ∧
      ((opened (busyEngine .czero 5)).session 0).valid = true ∧ (t.session 0).valid = true ∧
      (t.session 0).pos ≠ ((opened (busyEngine .czero 5)).session 0).pos :=
  ⟨commit_inv, by decide, _, rfl, by decide, by decide, by decide⟩

theorem witness_AtMostOneResponsePerStep :
    ∃ t, step (opened { busyEngine .loop 0 with rem := 0 }) = .next t ∧ t.responses ≠ [] :=
  ⟨_, rfl, by decide⟩

/-- A producer's step, an engine's, and a command. -/
theorem witness_FormatDecidesNoStep :
    (producing.nextEvent = .producer ∧ ∃ t, step producing = .next t) ∧
    ((opened (busyEngine .cread 0)).nextEvent = .engine 0 ∧
      ∃ t, step (opened (busyEngine .cread 0)) = .next t) ∧
    ({ ring with schedule := [.command 0x01000000000000000000000000000000#128] }.nextEvent =
        .command 0x01000000000000000000000000000000#128 ∧
      ∃ t, step { ring with schedule := [.command 0x01000000000000000000000000000000#128] } = .next t) :=
  ⟨⟨rfl, _, rfl⟩, ⟨rfl, _, rfl⟩, rfl, _, rfl⟩

theorem witness_ReadEnginesIgnoreTheInterrupt :
    (opened (busyEngine .poll 0)).nextEvent = .engine 0 ∧
    ∃ t, step (opened (busyEngine .poll 0)) = .next t := ⟨rfl, _, rfl⟩

end Sys2Proof.Tests
end

section
/-! SUPPORT. What each agent can do in a step that goes on, one inductive case a rule, and what it
leaves alone. -/

namespace Sys2Proof.Machine

open Sys2Proof

/-! ### The read engine -/

/-- The steps of the read engine of slot `i` that go on (43_session_commands.md R188 to R195). -/
inductive EngineStep (s : State) (i : Nat) : State → Prop where
  | none (h : s.params.nsess ≤ i ∨ (s.engine i).phase = .idle) : EngineStep s i s
  | finish (hi : i < s.params.nsess) (hp : (s.engine i).phase = .loop) :
    EngineStep s i (finishRead i s)
  | chunk (hi : i < s.params.nsess) (hp : (s.engine i).phase = .loop) (hr : (s.engine i).rem ≠ 0) :
    EngineStep s i (s.setEngine i { s.engine i with
      clen := chunkLen s.params (s.session i).pos.toNat (s.engine i).rem.toNat
      cidx := 0
      phase := .cread })
  | wait (hi : i < s.params.nsess) (hp : (s.engine i).phase = .loop)
    (hb : (s.engine i).nb = false) :
    EngineStep s i (s.setEngine i { s.engine i with phase := .poll })
  | stage (a : Nat) (hi : i < s.params.nsess) (hp : (s.engine i).phase = .cread)
    (hk : (s.engine i).cidx < (s.engine i).clen) (ha : s.inRing a = true) :
    EngineStep s i (s.setEngine i { s.engine i with
      cb := (s.engine i).cb.set (s.engine i).cidx (s.physByte a)
      cidx := (s.engine i).cidx + 1 })
  | staged (hi : i < s.params.nsess) (hp : (s.engine i).phase = .cread)
    (hk : (s.engine i).clen ≤ (s.engine i).cidx) :
    EngineStep s i (s.setEngine i { s.engine i with phase := .cdeliver })
  | deliver (hi : i < s.params.nsess) (hp : (s.engine i).phase = .cdeliver)
    (ha : s.admits (s.engine i).dptr.toNat (s.engine i).clen = true) :
    EngineStep s i ((s.dstDeliver (s.engine i).dptr.toNat (chunkBytes (s.engine i))).setEngine i
      { s.engine i with cidx := 0, phase := .czero })
  | fail (hi : i < s.params.nsess) (hp : (s.engine i).phase = .cdeliver) :
    EngineStep s i (takeException (.callerBufferFault i) s)
  | zero (a : Nat) (hi : i < s.params.nsess) (hp : (s.engine i).phase = .czero)
    (hk : (s.engine i).cidx < (s.engine i).clen) (ha : s.inRing a = true) :
    EngineStep s i ((s.physWrite a 0).setEngine i { s.engine i with cidx := (s.engine i).cidx + 1 })
  | commit (hi : i < s.params.nsess) (hp : (s.engine i).phase = .czero)
    (hk : (s.engine i).clen ≤ (s.engine i).cidx) : EngineStep s i (commitStep i s)
  | poll (hi : i < s.params.nsess) (hp : (s.engine i).phase = .poll) : EngineStep s i (pollStep i s)

/-- A `LOOP` step ends the `READ`, begins a chunk, or waits for the producer. -/
theorem EngineStep.of_loop {s : State} {i : Nat} (hi : i < s.params.nsess)
    (hp : (s.engine i).phase = .loop) : EngineStep s i (loopStep i s) := by
  unfold loopStep
  split
  · exact .finish hi hp
  · split
    · exact .chunk hi hp ‹_›
    · split
      · exact .finish hi hp
      · exact .wait hi hp (by simpa using ‹¬(s.engine i).nb = true›)

/-- An engine step that goes on is one of the cases of `EngineStep`. -/
theorem engineStep_next {i : Nat} {s t : State} (h : engineStep i s = .next t) :
    EngineStep s i t := by
  unfold engineStep at h
  split at h
  · cases h; exact .none (.inl ‹_›)
  · have hi : i < s.params.nsess := by omega
    split at h
    next hp => cases h; exact .none (.inr hp)
    next hp => cases h; exact .of_loop hi hp
    next hp =>
      obtain ⟨hk, a, -, ha, rfl⟩ | ⟨hk, rfl⟩ := creadStep_next h
      · exact .stage a hi hp hk ha
      · exact .staged hi hp hk
    next hp =>
      cases h
      unfold cdeliverStep
      split
      · exact .deliver hi hp ‹_›
      · exact .fail hi hp
    next hp =>
      obtain ⟨hk, a, -, ha, rfl⟩ | ⟨hk, rfl⟩ := czeroStep_next h
      · exact .zero a hi hp hk ha
      · exact .commit hi hp hk
    next hp => cases h; exact .poll hi hp

/-! ### The command decoder -/

/-- The steps of the command decoder that go on (30_encoding.md R105; 43_session_commands.md R181 to
R186; 41_generator.md R141). -/
inductive CommandStep (s : State) : State → Prop where
  | refused (sid : Slot) (r : RefuseReason) : CommandStep s (s.refuseCommand sid r)
  | opened (sid : Slot) (hs : sid.toNat < s.params.nsess)
    (hv : (s.session sid.toNat).valid = false) :
    CommandStep s
      ({ (s.setSession sid.toNat { valid := true, pos := 0, initialPage := s.openPage }) with
        intmsk := true }.respond .done sid s.openPage)
  | closed (sid : Slot) (hs : sid.toNat < s.params.nsess)
    (hp : (s.engine sid.toNat).phase = .idle) :
    CommandStep s ({ (s.setSession sid.toNat s.closedSession) with
      intmsk := false, freeUses := s.freeUses + 1 }.respond .done sid 0)
  | accepted (nb : Bool) (sid : Slot) (len : Word) (dst : Long)
    (h : readCheck sid len dst s = none) : CommandStep s (acceptRead nb sid len dst s)
  | generated (sid : Slot) (he : s.producerEnabled = false)
    (hb : s.progBase.toNat + progSize s.params ≤ 2 ^ 32) :
    CommandStep s (s.writeImage.respond .done sid (BitVec.ofNat 32 (2 * s.params.pageCount + 2)))

/-- Executing what a command word decodes to is one of the cases of `CommandStep`. -/
theorem exec_command_next {w : CmdWord} {i : Instr} {s t : State} (hd : decodeCommand w = .ok i)
    (h : exec i s = .next t) : CommandStep s t := by
  obtain rfl | rfl | rfl | rfl := decodeCommand_ok hd
  · obtain ⟨r, -, rfl⟩ | ⟨hc, rfl⟩ := execOpenSession_next h
    · exact .refused _ r
    · obtain ⟨hs, hv⟩ := openCheck_none hc
      exact .opened _ hs hv
  · obtain ⟨r, -, rfl⟩ | ⟨hc, rfl⟩ := execRead_next h
    · exact .refused _ r
    · exact .accepted _ _ _ _ hc
  · obtain ⟨r, -, rfl⟩ | ⟨hc, rfl⟩ := execCloseSession_next h
    · exact .refused _ r
    · obtain ⟨hs, -, hp⟩ := slotCheck_none hc
      exact .closed _ hs hp
  · obtain ⟨he, hb, rfl⟩ := execGenerate_next h
    exact .generated _ he hb

/-! ### The producer's turn, forwards -/

/-- A producer without an enabled step passes (log 15). -/
theorem step_producer_disabled {s : State} (hev : s.nextEvent = .producer)
    (h : s.producerEnabled = false) : step s = .next s.consumed := by
  by_cases he : s.riscErr = true
  · simp [step, hev, takeTurn, producerTurn, he]
  · obtain ⟨ha, hr⟩ : s.pw.active = false ∧ s.run = false := by
      simpa [State.producerEnabled, he] using h
    simp [step, hev, takeTurn, producerTurn, he, ha, hr]

/-- A `WRITE` in flight with no byte left completes (40_risc_program.md R126). -/
theorem step_producer_complete {s : State} (hev : s.nextEvent = .producer) (he : s.riscErr = false)
    (ha : s.pw.active = true) (hl : s.pw.left = 0) :
    step s = .next (completionStep s.consumed) := by
  simp [step, hev, takeTurn, producerTurn, he, ha, hl]

/-- A `WRITE` in flight with bytes left transfers one (40_risc_program.md R125). -/
theorem step_producer_transfer {s : State} (hev : s.nextEvent = .producer) (he : s.riscErr = false)
    (ha : s.pw.active = true) (hl : s.pw.left ≠ 0) : step s = transferStep s.consumed := by
  simp only [step, hev, takeTurn, producerTurn, State.consumed_riscErr, State.consumed_pw, he, ha,
    if_true, Bool.false_eq_true, if_false]
  exact if_neg hl

/-- A running, idle producer executes what it fetches (40_risc_program.md R121). -/
theorem step_producer_fetched {s : State} {i : Instr} (hev : s.nextEvent = .producer)
    (he : s.riscErr = false) (ha : s.pw.active = false) (hr : s.run = true) (hf : s.fetch = .ok i) :
    step s = exec i s.consumed := by
  have hf' : s.consumed.fetch = .ok i := hf
  simp [step, hev, takeTurn, producerTurn, he, ha, hr, hf']

/-- A running, idle producer whose fetch finds no instruction raises `RiscError`
(60_exceptions.md R243). -/
theorem step_producer_error {s : State} {r : Reject} (hev : s.nextEvent = .producer)
    (he : s.riscErr = false) (ha : s.pw.active = false) (hr : s.run = true)
    (hf : s.fetch = .error r) : step s = .next (takeException .riscError s.consumed) := by
  have hf' : s.consumed.fetch = .error r := hf
  simp [step, hev, takeTurn, producerTurn, he, ha, hr, hf']

/-- A step on the producer's event is a step of the producer. -/
theorem step_producer_next {s t : State} (hev : s.nextEvent = .producer) (h : step s = .next t) :
    ProducerStep s.consumed t := by
  obtain ⟨-, hp⟩ | ho := step_next h
  · exact hp
  · rw [hev] at ho; cases ho

/-- A state has one successor. -/
theorem step_unique {s t u : State} (ht : step s = .next t) (hu : step s = .next u) : t = u :=
  Host.Outcome.next.inj (ht.symm.trans hu)

/-- A step on any other event is a step of another agent. -/
theorem step_other_next {s t : State} (hev : s.nextEvent ≠ .producer) (h : step s = .next t) :
    OtherStep s.consumed s.nextEvent t := by
  obtain ⟨hp, -⟩ | ho := step_next h
  · exact absurd hp hev
  · exact ho

/-! ### What the producer does and leaves alone -/

/-- Executing what a fetch finds advances `RPC`, puts a legal `WRITE` in flight, or jumps to an
aligned target (40_risc_program.md R123, R124, R127). -/
theorem fetched_next {s t : State} {i : Instr} (hf : s.fetch = .ok i) (h : exec i s = .next t) :
    t = { s with rpc := s.rpc + 4 } ∨
      (∃ irq cc bc, ∃ addr : Word, cc ≠ 0b10#2 ∧ s.inProgram s.rpc.toNat 8 = true ∧ t = { s with
        pw := { active := true, addr := addr.setWidth 33, left := bc, cc := cc, irq := irq }
        rpc := s.rpc + 8 }) ∨
      ∃ target : Word, target.toNat % 4 = 0 ∧ t = { s with rpc := target.setWidth 33 } := by
  obtain ⟨-, -, hplace⟩ := fetch_ok_place hf
  obtain rfl | ⟨irq, cc, bc, addr, hcc, rfl⟩ | ⟨target, hal, rfl⟩ := fetch_ok hf
  · exact .inl (Host.Outcome.next.inj h).symm
  · have h8 := hplace.resolve_right nofun
    exact .inr (.inl ⟨irq, cc, bc, addr, hcc, h8,
      Host.Outcome.next.inj (h.symm.trans (if_neg hcc))⟩)
  · exact .inr (.inr ⟨target, hal,
      Host.Outcome.next.inj (h.symm.trans (if_neg (by simpa using hal)))⟩)

/-- The producer writes its own registers, `INTSTAT` and PHYS, and nothing else. -/
theorem ProducerStep.frame {s t : State} (h : ProducerStep s t) :
    t = { s with
      rpc := t.rpc, pw := t.pw, gpcnt := t.gpcnt, srcIdx := t.srcIdx, riscErr := t.riscErr
      intstat := t.intstat, phys := t.phys } := by
  cases h
  case disabled => rfl
  case complete => rfl
  case transfer h => obtain ⟨-, rfl⟩ := transferStep_next h; rfl
  case fetched i _ _ _ hf h =>
    obtain rfl | ⟨_, _, _, _, -, -, rfl⟩ | ⟨_, -, rfl⟩ := fetched_next hf h <;> rfl
  case error => rfl

theorem ProducerStep.params {s t : State} (h : ProducerStep s t) : t.params = s.params :=
  (congrArg State.params h.frame).trans rfl

theorem ProducerStep.run {s t : State} (h : ProducerStep s t) : t.run = s.run :=
  (congrArg State.run h.frame).trans rfl

theorem ProducerStep.page {s t : State} (h : ProducerStep s t) (i : Nat) : t.page i = s.page i :=
  (congrArg (State.page · i) h.frame).trans rfl

theorem ProducerStep.session {s t : State} (h : ProducerStep s t) (i : Nat) :
    t.session i = s.session i := (congrArg (State.session · i) h.frame).trans rfl

/-- `GPCNT` changes in a completion only (10_state.md R22). -/
theorem ProducerStep.gpcnt_or_complete {s t : State} (h : ProducerStep s t) :
    t.gpcnt = s.gpcnt ∨ (s.pw.active = true ∧ s.pw.left = 0 ∧ t.pw.active = false) := by
  cases h
  case disabled => exact .inl rfl
  case complete _ ha hl => exact .inr ⟨ha, hl, rfl⟩
  case transfer h => obtain ⟨-, rfl⟩ := transferStep_next h; exact .inl rfl
  case fetched i _ _ _ hf h =>
    obtain rfl | ⟨_, _, _, _, -, -, rfl⟩ | ⟨_, -, rfl⟩ := fetched_next hf h <;> exact .inl rfl
  case error => exact .inl rfl

/-! ### The start action -/

/-- The state the start action leaves (44_lifecycle_config.md R221). -/
def State.started (s : State) : State :=
  { s with
    rpc := s.progBase.setWidth 33
    gpcnt := 0
    pw := { s.pw with active := false }
    run := true }

/-- A write of an odd value to `CTRL` of a stopped block is the start action. -/
theorem regWrite_ctrl_start {s t : State} {v : Word} (hr : s.run = false) (hv : v.toNat % 2 = 1)
    (h : regWrite 0x00 v s = .next t) : s.mapOk = true ∧ t = s.started := by
  have hb : v.getLsbD 0 = true := by rw [getLsbD_zero_eq, hv]; rfl
  simp only [regWrite, regAt, if_true, writeReg, writeCtrl, hb, hr, startAction,
    Bool.false_eq_true, if_false] at h
  split at h
  · exact ⟨‹_›, (Host.Outcome.next.inj h).symm⟩
  · cases h

/-- Only `CTRL` is at offset 0 (10_state.md R36). -/
theorem regAt_ctrl {p : Params} {off : Nat} (h : regAt p off = some .ctrl) : off = 0x00 := by
  by_contra hne
  simp only [regAt, if_neg hne] at h
  split_ifs at h <;> cases h

/-- A register write that sets `CTRL.RUN` writes an odd value to `CTRL`
(44_lifecycle_config.md R221). -/
theorem regWrite_sets_run {off : Nat} {v : Word} {s t : State} (h : regWrite off v s = .next t)
    (h0 : s.run = false) (h1 : t.run = true) : off = 0x00 ∧ v.toNat % 2 = 1 := by
  unfold regWrite at h
  split at h
  · cases h
  next r hr =>
    cases r <;> simp only [writeReg, writeProgBase, writePageAddr] at h
    case ctrl =>
      refine ⟨regAt_ctrl hr, ?_⟩
      unfold writeCtrl at h
      split at h
      next hb => rw [getLsbD_zero_eq] at hb; exact of_decide_eq_true hb
      · cases h; simp [stopAction] at h1
    case progBase => split at h <;> cases h; simp [h0] at h1
    case pageAddr => split at h <;> cases h; simp [h0] at h1
    all_goals cases h; simp [h0] at h1

/-! ### What the agents beside the producer leave alone -/

/-- The step from `s` to `t` leaves the producer's registers alone, does not set `CTRL.RUN`, and
keeps the address registers of a live block (20_memory.md R64 (d)). -/
structure ProducerKept (s t : State) : Prop where
  params : t.params = s.params
  rpc : t.rpc = s.rpc
  pw : t.pw = s.pw
  gpcnt : t.gpcnt = s.gpcnt
  srcIdx : t.srcIdx = s.srcIdx
  riscErr : t.riscErr = s.riscErr
  run_of_run : t.run = true → s.run = true
  map_of_live : s.live = true → t.progBaseHi = s.progBaseHi ∧ t.pageAddr = s.pageAddr

/-- A step that writes none of those registers and not `CTRL.RUN`. -/
theorem ProducerKept.of_frame {s t : State} (h : t = { s with
    intstat := t.intstat, intmsk := t.intmsk, fmt := t.fmt, sess := t.sess, rd := t.rd
    phys := t.phys, dst := t.dst, dstAdmit := t.dstAdmit, responses := t.responses, busReads := t.busReads
    freeUses := t.freeUses }) : ProducerKept s t := by
  rw [h]; exact ⟨rfl, rfl, rfl, rfl, rfl, rfl, id, fun _ => ⟨rfl, rfl⟩⟩

theorem EngineStep.kept {s t : State} {i : Nat} (h : EngineStep s i t) : ProducerKept s t := by
  cases h
  case fail =>
    rw [takeException_callerBufferFault]
    exact .of_frame rfl
  all_goals exact .of_frame rfl

theorem acceptRead_kept (nb : Bool) (sid : Slot) (len : Word) (dst : Long) (s : State) :
    ProducerKept s (acceptRead nb sid len dst s) := by
  unfold acceptRead
  dsimp only
  split <;> exact .of_frame rfl

theorem CommandStep.kept {s t : State} (h : CommandStep s t) : ProducerKept s t := by
  cases h
  case accepted nb sid len dst _ => exact acceptRead_kept nb sid len dst s
  all_goals exact .of_frame rfl

/-- Writing the element a list has at an index changes nothing. -/
theorem set_getD_self {α : Type} (l : List α) (i : Nat) (d : α) : l.set i (l.getD i d) = l := by
  obtain hlt | hge := Nat.lt_or_ge i l.length
  · rw [List.getD_eq_getElem _ _ hlt, List.set_getElem_self]
  · rw [List.set_eq_of_length_le hge]

/-- A register write touches no memory and no slot, and no register comes or goes
(10_state.md R37). -/
theorem regWrite_frame {off : Nat} {v : Word} {s t : State} (h : regWrite off v s = .next t) :
    t.params = s.params ∧ t.pageAddr.length = s.pageAddr.length ∧ t.sess = s.sess ∧ t.rd = s.rd ∧
      t.phys = s.phys ∧ t.dst = s.dst := by
  obtain rfl | ⟨-, -, rfl⟩ | rfl | ⟨b, rfl⟩ | ⟨b, rfl⟩ | ⟨b, rfl⟩ | ⟨-, b, rfl⟩ | ⟨-, i, rfl⟩ |
    ⟨i, -, rfl⟩ := regWrite_next h
  all_goals simp

/-- A register write is the start action or leaves the producer alone. -/
theorem regWrite_kept {off : Nat} {v : Word} {s t : State} (h : regWrite off v s = .next t) :
    (off = 0x00 ∧ v.toNat % 2 = 1 ∧ s.run = false ∧ s.mapOk = true ∧ t = s.started) ∨
      ProducerKept s t := by
  obtain rfl | ⟨hr, hm, rfl⟩ | rfl | ⟨b, rfl⟩ | ⟨b, rfl⟩ | ⟨b, rfl⟩ | ⟨hl, b, rfl⟩ | ⟨hl, i, rfl⟩ |
    ⟨i, rfl, rfl⟩ := regWrite_next h
  · exact .inr (.of_frame rfl)
  · obtain ⟨ho, hv⟩ := regWrite_sets_run h hr rfl
    exact .inl ⟨ho, hv, hr, hm, rfl⟩
  · exact .inr ⟨rfl, rfl, rfl, rfl, rfl, rfl, nofun, fun _ => ⟨rfl, rfl⟩⟩
  · exact .inr (.of_frame rfl)
  · exact .inr (.of_frame rfl)
  · exact .inr (.of_frame rfl)
  · exact .inr ⟨rfl, rfl, rfl, rfl, rfl, rfl, id, fun h => absurd h (by simp [hl])⟩
  · exact .inr ⟨rfl, rfl, rfl, rfl, rfl, rfl, id, fun h => absurd h (by simp [hl])⟩
  · exact .inr ⟨rfl, rfl, rfl, rfl, rfl, rfl, id, fun _ => ⟨rfl, set_getD_self s.pageAddr i 0⟩⟩

/-- A step of an agent beside the producer, reset aside, is the start action or leaves the producer
alone. -/
theorem OtherStep.kept {s t : State} {e : Event} (h : OtherStep s e t) (hne : e ≠ .reset) :
    (∃ v : Word, e = .regWrite 0x00 v ∧ v.toNat % 2 = 1 ∧ s.run = false ∧ s.mapOk = true ∧
      t = s.started) ∨ ProducerKept s t := by
  cases h
  case engine i h => exact .inr (engineStep_next h).kept
  case command w i hd h => exact .inr (exec_command_next hd h).kept
  case badCommand w r _ => exact .inr (CommandStep.refused (sidField w) r).kept
  case regRead off h =>
    obtain ⟨r, -, rfl⟩ := regRead_next h
    exact .inr (.of_frame rfl)
  case regWrite off v h =>
    obtain ⟨rfl, hv, hr, hm, rfl⟩ | hk := regWrite_kept h
    · exact .inl ⟨v, rfl, hv, hr, hm, rfl⟩
    · exact .inr hk
  case reset => exact absurd rfl hne
  case setDstAdmit bs => exact .inr (.of_frame rfl)
  case hostStore a vs h =>
    obtain ⟨-, -, -, rfl⟩ := hostStore_next h
    exact .inr (.of_frame rfl)
  case hostStoreDst a vs h =>
    obtain ⟨-, rfl⟩ := hostStoreDst_next h
    exact .inr (.of_frame rfl)

/-- The same of a step on an event that is neither the producer's nor reset. -/
theorem step_other_kept {s t : State} (hev : s.nextEvent ≠ .producer) (hne : s.nextEvent ≠ .reset)
    (h : step s = .next t) :
    (∃ v : Word, s.nextEvent = .regWrite 0x00 v ∧ v.toNat % 2 = 1 ∧ s.run = false ∧
      s.mapOk = true ∧ t = s.consumed.started) ∨ ProducerKept s t := by
  obtain hstart | hk := (step_other_next hev h).kept hne
  · exact .inl hstart
  · exact .inr ⟨hk.params, hk.rpc, hk.pw, hk.gpcnt, hk.srcIdx, hk.riscErr, hk.run_of_run,
      hk.map_of_live⟩

/-- A start action that goes on. -/
theorem step_start {s t : State} {v : Word} (hev : s.nextEvent = .regWrite 0x00 v)
    (hr : s.run = false) (hv : v.toNat % 2 = 1) (h : step s = .next t) :
    t = s.consumed.started := by
  have ho := step_other_next (by rw [hev]; nofun) h
  rw [hev] at ho
  cases ho with
  | regWrite off v t h => exact (regWrite_ctrl_start (s := s.consumed) hr hv h).2

end Sys2Proof.Machine
end

section
/-! SUPPORT. The generated program (41_generator.md R142) as the producer meets it: what it fetches
at each address of the image, and where the pages lie. -/

namespace Sys2Proof.Machine

open Sys2Proof

/-! ### Sizes and pages -/

/-- Legal sizes fit the counter (00_scope.md R8). -/
theorem pageCount_lt_of_valid {p : Params} (h : p.valid) : p.pageCount < 2 ^ 32 := by
  obtain ⟨-, hmin, -, -, hring, -⟩ := h
  have := Nat.mul_le_mul_left p.pageCount hmin
  omega

/-- A page is two clusters. -/
theorem Producing.pageSize_eq {s : State} {src0 : Nat} (h : Producing s src0) :
    s.params.pageSize = 2 * clusterSize s.params := by
  obtain ⟨heven, -⟩ := h.sizes
  unfold clusterSize; omega

/-- A cluster fits the byte count of a `WRITE` and is not empty (00_scope.md R8). -/
theorem Producing.clusterSize_bounds {s : State} {src0 : Nat} (h : Producing s src0) :
    6 ≤ clusterSize s.params ∧ clusterSize s.params ≤ 4095 := by
  obtain ⟨-, hmin, hmax, -⟩ := h.sizes
  unfold clusterSize; omega

theorem Producing.pageCount_ge {s : State} {src0 : Nat} (h : Producing s src0) :
    2 ≤ s.params.pageCount := by
  obtain ⟨-, -, -, hp, -⟩ := h.sizes
  exact hp

/-- The page the `n`-th `WRITE` fills is one of the ring. -/
theorem Producing.page_index_lt {s : State} {src0 : Nat} (h : Producing s src0) (n : Nat) :
    n / 2 % s.params.pageCount < s.params.pageCount :=
  Nat.mod_lt _ (by have := h.pageCount_ge; omega)

/-- A ring page ends inside PHYS. -/
theorem Producing.page_le {s : State} {src0 i : Nat} (h : Producing s src0)
    (hi : i < s.params.pageCount) : (s.page i).toNat + s.params.pageSize ≤ 2 ^ 32 := by
  obtain ⟨-, -, hpage, -⟩ := State.mapOk_regions h.map
  exact (hpage i hi).1

/-- A byte of a page is a byte of the ring. -/
theorem Producing.inRing_page {s : State} {src0 i d : Nat} (h : Producing s src0)
    (hi : i < s.params.pageCount) (hd : d < s.params.pageSize) :
    s.inRing ((s.page i).toNat + d) = true := by
  obtain ⟨-, -, hpage, -⟩ := State.mapOk_regions h.map
  obtain ⟨hle, hmem⟩ := hpage i hi
  simp only [State.inRing, Bool.and_eq_true, decide_eq_true_eq, List.any_eq_true]
  exact ⟨by omega, _, hmem, by omega, by omega⟩

/-- No byte of the ring lies in the program region of a legal map (20_memory.md R64). -/
theorem State.inRing_not_program {s : State} {a : Nat} (hm : s.mapOk = true)
    (ha : s.inRing a = true) :
    a < s.progBase.toNat ∨ s.progBase.toNat + progSize s.params ≤ a := by
  obtain ⟨-, -, -, hdisj⟩ := State.mapOk_regions hm
  simp only [State.inRing, Bool.and_eq_true, decide_eq_true_eq, List.any_eq_true] at ha
  obtain ⟨-, b, hb, hlo, hhi⟩ := ha
  obtain h | h := hdisj b hb <;> omega

/-- Two pages of a legal map share no byte. -/
theorem State.pages_disjoint {s : State} (hm : s.mapOk = true) {i j : Nat}
    (hi : i < s.pageAddr.length) (hj : j < s.pageAddr.length) (hne : i ≠ j) :
    s.pageAddr[i].toNat + s.params.pageSize ≤ s.pageAddr[j].toNat ∨
      s.pageAddr[j].toNat + s.params.pageSize ≤ s.pageAddr[i].toNat := by
  simp only [State.mapOk, Bool.and_eq_true, decide_eq_true_eq, State.regions, List.pairwise_cons,
    List.pairwise_map, disjointRegions] at hm
  obtain ⟨-, -, hpw⟩ := hm
  rw [List.pairwise_iff_getElem] at hpw
  obtain hlt | hgt := Nat.lt_or_gt_of_ne hne
  · exact hpw i j hi hj hlt
  · exact (hpw j i hj hi hgt).symm

theorem Producing.page_eq_getElem {s : State} {src0 i : Nat} (h : Producing s src0)
    (hi : i < s.params.pageCount) :
    ∃ hi' : i < s.pageAddr.length, s.page i = s.pageAddr[i] := by
  obtain ⟨hlen, -⟩ := State.mapOk_regions h.map
  exact ⟨by omega, by simp [State.page, show i < s.pageAddr.length by omega]⟩

/-! ### The `WRITE`s of the image -/

/-- Counter control of `WRITE` number `j` of the program, `j` from 0 (41_generator.md R143). -/
def imageCc (p : Params) (j : Nat) : BitVec 2 :=
  if j % 2 = 0 then 0b00 else secondHalfCc p.pageCount (j / 2)

/-- Target of `WRITE` number `j` of the program (41_generator.md R142). -/
def State.imageTarget (s : State) (j : Nat) : Word :=
  if j % 2 = 0 then s.page (j / 2) else s.page (j / 2) + BitVec.ofNat 32 (clusterSize s.params)

theorem secondHalfCc_ne (p i : Nat) : secondHalfCc p i ≠ 0b10#2 := by
  unfold secondHalfCc; split <;> decide

theorem imageCc_ne (p : Params) (j : Nat) : imageCc p j ≠ 0b10#2 := by
  unfold imageCc
  split
  · decide
  · exact secondHalfCc_ne _ _

/-- The target of a `WRITE` of the program is the half of its page, without wrapping. -/
theorem Producing.imageTarget_toNat {s : State} {src0 j : Nat} (h : Producing s src0)
    (hj : j < 2 * s.params.pageCount) :
    (s.imageTarget j).toNat = (s.page (j / 2)).toNat + j % 2 * clusterSize s.params := by
  have hp := h.page_le (i := j / 2) (by omega)
  have hz := h.pageSize_eq
  obtain ⟨hlo, hhi⟩ := h.clusterSize_bounds
  unfold State.imageTarget
  obtain he | ho := Nat.mod_two_eq_zero_or_one j
  · simp [he]
  · rw [if_neg (by omega), ho, BitVec.toNat_add, BitVec.toNat_ofNat,
      Nat.mod_eq_of_lt (show clusterSize s.params < 2 ^ 32 by omega), Nat.mod_eq_of_lt (by omega)]
    omega

/-! ### What the producer fetches -/

/-- The program region ends inside PHYS and holds the whole image. -/
theorem Producing.region {s : State} {src0 : Nat} (h : Producing s src0) :
    s.progBase.toNat + progSize s.params ≤ 2 ^ 32 ∧
      16 * s.params.pageCount + 12 ≤ progSize s.params := by
  obtain ⟨-, hle, -⟩ := State.mapOk_regions h.map
  obtain ⟨-, hmin, -⟩ := h.sizes
  exact ⟨hle, by unfold progSize; omega⟩

/-- Where two words of the image stand at `RPC`, the fetch decodes them. -/
theorem Producing.fetch_words {s : State} {src0 k : Nat} (h : Producing s src0) {w w' : Word}
    (hk : k ≤ 4 * s.params.pageCount + 1) (hr : s.rpc.toNat = s.progBase.toNat + 4 * k)
    (hw : (imageWords s)[k]? = some w) (hw' : (imageWords s)[k + 1]? = some w') :
    s.fetch = (decodeBytes (bytesOfWord w ++ (bytesOfWord w' ++ []))).map Prod.fst := by
  obtain ⟨hle, hsize⟩ := h.region
  have hal := s.progBase_aligned
  rw [State.fetch_eight (by omega)
    (by simp only [State.inProgram, decide_eq_true_eq]; omega), hr, h.image.physBytes_eight hw hw']

/-- At the start of the image the producer fetches the `SYNC` (41_generator.md R142). -/
theorem Producing.fetch_sync {s : State} {src0 : Nat} (h : Producing s src0)
    (hr : s.rpc.toNat = s.progBase.toNat) : s.fetch = .ok .sync := by
  have hlen := imageWords_length s
  have hw' : (imageWords s)[0 + 1]? = some ((imageWords s)[1]'(by omega)) := by simp
  rw [h.fetch_words (k := 0) (by omega) (by omega) (by rw [imageWords_eq]; rfl) hw',
    decodeBytes_sync]
  rfl

/-- At the address of a `WRITE` the producer fetches it (41_generator.md R142 to R144). -/
theorem Producing.fetch_write {s : State} {src0 j : Nat} (h : Producing s src0)
    (hj : j < 2 * s.params.pageCount) (hr : s.rpc.toNat = s.writeAt j) :
    s.fetch = .ok (.write (irqFlag (j + 1)) (imageCc s.params j)
      (BitVec.ofNat 12 (clusterSize s.params)) (s.imageTarget j)) := by
  obtain ⟨irq, cc, bc, a, -, h0, h1, rfl, rfl, hcc, ha⟩ := pageWrites_getElem? s j _ hj
  obtain rfl : cc = imageCc s.params j := hcc
  obtain rfl : a = s.imageTarget j := ha
  have hw := (imageWords_getElem?_succ s (2 * j)).trans ((if_pos (by omega)).trans h0)
  have hw' := (imageWords_getElem?_succ s (2 * j + 1)).trans ((if_pos (by omega)).trans h1)
  rw [h.fetch_words (by omega) (by rw [hr, State.writeAt]; omega) hw hw',
    decodeBytes_write _ _ _ _ _ (imageCc_ne _ _)]
  rfl

/-- After the last `WRITE` the producer fetches the `JUMP` (41_generator.md R142, R145). -/
theorem Producing.fetch_jump {s : State} {src0 : Nat} (h : Producing s src0)
    (hr : s.rpc.toNat = s.writeAt (2 * s.params.pageCount)) :
    s.fetch = .ok (.jump (s.progBase + 4)) ∧ (s.progBase + 4).toNat = s.writeAt 0 ∧
      (s.progBase + 4).toNat % 4 = 0 := by
  obtain ⟨hle, hsize⟩ := h.region
  have hal := s.progBase_aligned
  have hadd : (s.progBase + 4).toNat = s.progBase.toNat + 4 := by
    rw [BitVec.toNat_add, show (4 : Word).toNat = 4 from rfl, Nat.mod_eq_of_lt (by omega)]
  have hw : (imageWords s)[1 + 4 * s.params.pageCount]? = some 0x70000000#32 := by
    rw [imageWords_getElem?_succ, if_neg (by omega)]; simp
  have hw' : (imageWords s)[1 + 4 * s.params.pageCount + 1]? = some (s.progBase + 4) := by
    rw [Nat.add_assoc, imageWords_getElem?_succ, if_neg (by omega),
      show 4 * s.params.pageCount + 1 - 4 * s.params.pageCount = 1 by omega]
    rfl
  refine ⟨?_, by rw [hadd]; rfl, by omega⟩
  rw [h.fetch_words (by omega) (by rw [hr, State.writeAt]; omega) hw hw',
    decodeBytes_jump _ _ (by omega)]
  rfl

/-! ### Positions of the program -/

/-- `RPC` is loaded with a PHYS address as it is. -/
theorem setWidth_ptr_toNat (w : Word) : (w.setWidth 33 : PhysPtr).toNat = w.toNat := by
  rw [BitVec.toNat_setWidth]; exact Nat.mod_eq_of_lt (by have := w.isLt; omega)

/-- An advance of a pointer that stays within the carry bit does not wrap (10_state.md R21). -/
theorem ptr_add_toNat {p : PhysPtr} {k : Nat} (h : p.toNat + k < 2 ^ 33) :
    (p + BitVec.ofNat 33 k).toNat = p.toNat + k := by
  rw [BitVec.toNat_add, BitVec.toNat_ofNat, Nat.mod_eq_of_lt (show k < 2 ^ 33 by omega),
    Nat.mod_eq_of_lt h]

/-- The counter is a page index wherever the program stands (10_state.md R41). -/
theorem Producing.counter_lt {s : State} {src0 : Nat} (h : Producing s src0) :
    s.gpcnt.toNat < s.params.pageCount := by
  obtain ⟨n, d, hf⟩ | ⟨n, hb⟩ := h.position
  · rw [hf.counter]; exact h.page_index_lt n
  · rw [hb.counter]; exact h.page_index_lt n

/-- A `WRITE` in flight depends on the producer's registers and the map alone. -/
theorem InFlight.congr {s t : State} {src0 n d : Nat} (h : InFlight s src0 n d)
    (hp : t.params = s.params) (hb : t.progBaseHi = s.progBaseHi) (ha : t.pageAddr = s.pageAddr)
    (hr : t.rpc = s.rpc) (hw : t.pw = s.pw) (hg : t.gpcnt = s.gpcnt) (hs : t.srcIdx = s.srcIdx) :
    InFlight t src0 n d := by
  obtain ⟨h1, h2, h3, h4, h5, h6, h7, h8, h9⟩ := h
  constructor <;>
    simp only [hp, hr, hw, hg, hs, State.page, ha, State.writeAt, State.progBase, hb] <;>
    assumption

/-- A place between `WRITE`s depends on the producer's registers and the map alone. -/
theorem BetweenWrites.congr {s t : State} {src0 n : Nat} (h : BetweenWrites s src0 n)
    (hp : t.params = s.params) (hb : t.progBaseHi = s.progBaseHi)
    (hr : t.rpc = s.rpc) (hw : t.pw = s.pw) (hg : t.gpcnt = s.gpcnt) (hs : t.srcIdx = s.srcIdx) :
    BetweenWrites t src0 n := by
  obtain ⟨h1, h2, h3, h4⟩ := h
  constructor <;> simp only [hp, hr, hw, hg, hs, State.writeAt, State.progBase, hb] <;> assumption

/-- The index in the program of `WRITE` number `n` gives the page it fills. -/
theorem index_half (n p : Nat) : n % (2 * p) / 2 = n / 2 % p := Nat.mod_mul_right_div_self n 2 p

/-- The index in the program of `WRITE` number `n` gives the half of the page it fills. -/
theorem index_parity (n p : Nat) : n % (2 * p) % 2 = n % 2 := Nat.mod_mul_right_mod n 2 p

/-- The index of the next `WRITE`, or the end of the lap. -/
theorem index_succ {p : Nat} (hp : 0 < p) (n : Nat) :
    (n + 1) % (2 * p) = n % (2 * p) + 1 ∨
      ((n + 1) % (2 * p) = 0 ∧ n % (2 * p) + 1 = 2 * p) := by
  have hlt := Nat.mod_lt n (show 2 * p > 0 by omega)
  obtain h | h := Nat.lt_or_ge (n % (2 * p) + 1) (2 * p)
  · left; rw [Nat.add_mod, Nat.mod_eq_of_lt (show 1 < 2 * p by omega), Nat.mod_eq_of_lt h]
  · right
    have he : n % (2 * p) + 1 = 2 * p := by omega
    refine ⟨?_, he⟩
    rw [← Nat.mod_add_mod, he, Nat.mod_self]

/-- The counter after the completion of `WRITE` number `n` is the page index of the next one
(10_state.md R41; 41_generator.md R143). -/
theorem counterAfter_image {p n : Nat} {g : Word} (hp : 2 ≤ p) (hp32 : p < 2 ^ 32)
    (hg : g.toNat = n / 2 % p) :
    (counterAfter (if n % 2 = 0 then 0b00 else secondHalfCc p (n / 2 % p)) g).toNat =
      (n + 1) / 2 % p := by
  have hlt := Nat.mod_lt (n / 2) (show p > 0 by omega)
  obtain he | ho := Nat.mod_two_eq_zero_or_one n
  · rw [if_pos he, show (n + 1) / 2 = n / 2 by omega, ← hg]; rfl
  · rw [if_neg (by omega), show (n + 1) / 2 = n / 2 + 1 by omega, ← Nat.mod_add_mod]
    unfold secondHalfCc
    split
    next hin =>
      show (g + 1).toNat = _
      rw [BitVec.toNat_add, hg, show (1 : Word).toNat = 1 from rfl, Nat.mod_eq_of_lt (by omega),
        Nat.mod_eq_of_lt hin]
    next hout =>
      rw [show n / 2 % p + 1 = p by omega, Nat.mod_self]; rfl

end Sys2Proof.Machine
end

section
/-! SUPPORT. The producer running the generated program: one lemma for each kind of step, then the
statement that it runs for ever (10_state.md R41; 60_exceptions.md R244). -/

namespace Sys2Proof.Machine

open Sys2Proof

/-! ### A `WRITE` in flight -/

/-- The state a transfer step leaves (40_risc_program.md R125). -/
def State.transferred (s : State) : State :=
  { s with
    phys := s.phys.write s.pw.addr.toNat s.nextSample
    srcIdx := s.srcIdx + 1
    pw := { s.pw with addr := s.pw.addr + 1, left := s.pw.left - 1 } }

theorem transferStep_eq {s : State} (h : s.inRing s.pw.addr.toNat = true) :
    transferStep s = .next s.transferred := if_pos h

/-- With bytes left, the next byte's address lies in the page the `WRITE` fills. -/
theorem InFlight.inRing {s : State} {src0 n d : Nat} (hf : InFlight s src0 n d)
    (h : Producing s src0) (hd : d < clusterSize s.params) : s.inRing s.pw.addr.toNat = true := by
  have hz := h.pageSize_eq
  have hpar := Nat.mod_lt n (show 2 > 0 by omega)
  rw [hf.addr, Nat.add_assoc]
  refine h.inRing_page (h.page_index_lt n) ?_
  obtain he | ho := Nat.mod_two_eq_zero_or_one n
  · rw [he]; omega
  · rw [ho]; omega

/-- Byte `n * C + d` of the program's output goes to page `n / 2` at offset `n % 2 * C + d`. -/
theorem byte_place {c p n d : Nat} (hd : d < c) :
    (n * c + d) / (2 * c) % p = n / 2 % p ∧ (n * c + d) % (2 * c) = n % 2 * c + d := by
  obtain ⟨q, r, hr, rfl⟩ : ∃ q r, r < 2 ∧ n = 2 * q + r :=
    ⟨n / 2, n % 2, Nat.mod_lt _ (by omega), by omega⟩
  have hlt : r * c + d < 2 * c := by
    obtain rfl | rfl : r = 0 ∨ r = 1 := by omega
    all_goals omega
  have hsplit : (2 * q + r) * c + d = r * c + d + 2 * c * q := by ring
  rw [hsplit, Nat.add_mul_div_left _ _ (by omega), Nat.add_mul_mod_self_left,
    Nat.div_eq_of_lt hlt, Nat.mod_eq_of_lt hlt, show (2 * q + r) / 2 = q by omega,
    show (2 * q + r) % 2 = r by omega, Nat.zero_add]
  exact ⟨rfl, rfl⟩

/-- A transfer moves the next sample byte to its place and the `WRITE` one byte on. -/
theorem InFlight.step_transfer {s : State} {src0 n d : Nat} (hf : InFlight s src0 n d)
    (h : Producing s src0) (hev : s.nextEvent = .producer) (hd : d < clusterSize s.params) :
    ∃ t, step s = .next t ∧ Producing t src0 ∧ InFlight t src0 n (d + 1) ∧
      ∀ a, t.physByte a =
        if a = (s.page (n / 2 % s.params.pageCount)).toNat + (n % 2 * clusterSize s.params + d)
        then s.sampleAt (src0 + (n * clusterSize s.params + d)) else s.physByte a := by
  have hring := hf.inRing h hd
  have hleft : s.pw.left ≠ 0 := fun h0 => by
    have hl := hf.left; rw [h0] at hl; simp at hl; omega
  have haddr := hf.addr
  have hlt : s.pw.addr.toNat < 2 ^ 32 := by
    simp only [State.inRing, Bool.and_eq_true, decide_eq_true_eq] at hring; exact hring.1
  have hnext : InFlight s.consumed.transferred src0 n (d + 1) :=
    { active := hf.active
      moved := hd
      left := by
        show (s.pw.left - 1).toNat = clusterSize s.params - (d + 1)
        rw [BitVec.toNat_sub_of_le (by bv_omega), hf.left]; simp; omega
      addr := by
        show (s.pw.addr + 1).toNat =
          (s.page (n / 2 % s.params.pageCount)).toNat + n % 2 * clusterSize s.params + (d + 1)
        rw [show (1 : PhysPtr) = BitVec.ofNat 33 1 from rfl, ptr_add_toNat (by omega)]; omega
      cc := hf.cc
      irq := hf.irq
      rpc := hf.rpc
      source := by
        show s.srcIdx + 1 = src0 + n * clusterSize s.params + (d + 1)
        rw [hf.source]; omega
      counter := hf.counter }
  refine ⟨s.consumed.transferred, ?_, ?_, hnext, fun a => ?_⟩
  · rw [step_producer_transfer hev h.no_error hf.active hleft]
    exact transferStep_eq hring
  · refine h.move rfl rfl rfl (fun x hlo hhi => ?_) h.no_error (.inl ⟨n, d + 1, hnext⟩)
    refine Memory.read_write_ne _ _ (fun hx => ?_)
    obtain hlt | hge := State.inRing_not_program h.map hring
    · exact absurd (hx ▸ hlo) (by simpa using hlt)
    · exact absurd (hx ▸ hhi) (by simpa using hge)
  · rw [← Nat.add_assoc, ← haddr, ← Nat.add_assoc, ← hf.source]
    exact s.consumed.physByte_physWrite s.pw.addr.toNat a s.nextSample

/-- A `WRITE` with all its bytes moved completes (40_risc_program.md R126). -/
theorem InFlight.step_complete {s : State} {src0 n d : Nat} (hf : InFlight s src0 n d)
    (h : Producing s src0) (hev : s.nextEvent = .producer) (hd : ¬d < clusterSize s.params) :
    ∃ t, step s = .next t ∧ Producing t src0 ∧ BetweenWrites t src0 (n + 1) ∧ sameMemory s t := by
  have hp := h.pageCount_ge
  have hmoved := hf.moved
  obtain rfl : d = clusterSize s.params := by omega
  have hleft : s.pw.left = 0 := BitVec.eq_of_toNat_eq (by rw [hf.left]; simp)
  have hnext : BetweenWrites (completionStep s.consumed) src0 (n + 1) :=
    { inactive := rfl
      rpc := by
        have hrpc : s.rpc.toNat = s.writeAt (n % (2 * s.params.pageCount) + 1) := hf.rpc
        obtain hs | ⟨hs, hend⟩ := index_succ (show 0 < s.params.pageCount by omega) n
        · exact .inr (.inl (by rw [← hs] at hrpc; exact hrpc))
        · exact .inr (.inr ⟨by omega, hs, by rw [hend] at hrpc; exact hrpc⟩)
      source := by
        show s.srcIdx = src0 + (n + 1) * clusterSize s.params
        rw [hf.source]; ring
      counter := by
        show (counterAfter s.pw.cc s.gpcnt).toNat = _
        rw [hf.cc]; exact counterAfter_image hp (pageCount_lt_of_valid h.sizes) hf.counter }
  exact ⟨_, step_producer_complete hev h.no_error hf.active hleft,
    h.move rfl rfl rfl (fun _ _ _ => rfl) h.no_error (.inr ⟨n + 1, hnext⟩), hnext,
    fun _ => ⟨rfl, rfl⟩⟩

/-! ### Between `WRITE`s -/

/-- At the `SYNC` or the `JUMP` the producer moves on to the `WRITE` that is next. -/
theorem BetweenWrites.step_to_write {s t : State} {src0 n : Nat} (hb : BetweenWrites s src0 n)
    (h : Producing s src0) (hstep : step s = .next { s.consumed with rpc := t.rpc })
    (hrpc : t.rpc.toNat = s.writeAt (n % (2 * s.params.pageCount))) :
    ∃ u, step s = .next u ∧ Producing u src0 ∧ BetweenWrites u src0 n ∧
      u.rpc.toNat = s.writeAt (n % (2 * s.params.pageCount)) ∧ sameMemory s u := by
  have hnext : BetweenWrites { s.consumed with rpc := t.rpc } src0 n :=
    ⟨hb.inactive, .inr (.inl hrpc), hb.source, hb.counter⟩
  exact ⟨_, hstep, h.move rfl rfl rfl (fun _ _ _ => rfl) h.no_error (.inr ⟨n, hnext⟩), hnext, hrpc,
    fun _ => ⟨rfl, rfl⟩⟩

/-- The state the issue of `WRITE` number `j` of the program leaves (40_risc_program.md R124). -/
def State.issued (s : State) (j : Nat) : State :=
  { s with
    pw := { active := true, addr := (s.imageTarget j).setWidth 33
            left := BitVec.ofNat 12 (clusterSize s.params)
            cc := imageCc s.params j, irq := irqFlag (j + 1) }
    rpc := s.rpc + 8 }

/-- At the next `WRITE` the producer issues it (40_risc_program.md R124). -/
theorem BetweenWrites.step_issue {s : State} {src0 n : Nat} (hb : BetweenWrites s src0 n)
    (h : Producing s src0) (hev : s.nextEvent = .producer) (hrun : s.run = true)
    (hrpc : s.rpc.toNat = s.writeAt (n % (2 * s.params.pageCount))) :
    ∃ t, step s = .next t ∧ Producing t src0 ∧ InFlight t src0 n 0 ∧ sameMemory s t := by
  have hp := h.pageCount_ge
  obtain ⟨hle, hsize⟩ := h.region
  obtain ⟨-, hmax⟩ := h.clusterSize_bounds
  have hj := Nat.mod_lt n (show 2 * s.params.pageCount > 0 by omega)
  have htarget := h.imageTarget_toNat hj
  rw [index_half, index_parity] at htarget
  have hfetch := h.fetch_write hj hrpc
  have hstep := step_producer_fetched hev h.no_error hb.inactive hrun hfetch
  have hexec : step s = .next (s.consumed.issued (n % (2 * s.params.pageCount))) :=
    hstep.trans (if_neg (imageCc_ne _ _))
  have hnext : InFlight (s.consumed.issued (n % (2 * s.params.pageCount))) src0 n 0 :=
    { active := rfl
      moved := Nat.zero_le _
      left := by
        show (BitVec.ofNat 12 (clusterSize s.params)).toNat = clusterSize s.params - 0
        rw [BitVec.toNat_ofNat]; omega
      addr := (setWidth_ptr_toNat _).trans htarget
      cc := by
        show imageCc s.params (n % (2 * s.params.pageCount)) =
          if n % 2 = 0 then 0b00 else secondHalfCc s.params.pageCount (n / 2 % s.params.pageCount)
        unfold imageCc; rw [index_half, index_parity]
      irq := rfl
      rpc := by
        show (s.rpc + 8).toNat = s.writeAt (n % (2 * s.params.pageCount) + 1)
        unfold State.writeAt at hrpc ⊢
        rw [show (8 : PhysPtr) = BitVec.ofNat 33 8 from rfl, ptr_add_toNat (by omega)]; omega
      source := hb.source
      counter := hb.counter }
  exact ⟨_, hexec, h.move rfl rfl rfl (fun _ _ _ => rfl) h.no_error (.inl ⟨n, 0, hnext⟩), hnext,
    fun _ => ⟨rfl, rfl⟩⟩

/-- A running producer between `WRITE`s: at the `WRITE` that is next it issues it, at the `SYNC` or
the `JUMP` it goes there. -/
theorem BetweenWrites.step_fetched {s : State} {src0 n : Nat} (hb : BetweenWrites s src0 n)
    (h : Producing s src0) (hev : s.nextEvent = .producer) (hrun : s.run = true) :
    ∃ t, step s = .next t ∧ Producing t src0 ∧ sameMemory s t ∧
      if s.rpc.toNat = s.writeAt (n % (2 * s.params.pageCount)) then InFlight t src0 n 0
      else BetweenWrites t src0 n ∧ t.rpc.toNat = s.writeAt (n % (2 * s.params.pageCount)) := by
  obtain ⟨hle, hsize⟩ := h.region
  split
  next hrpc =>
    obtain ⟨t, hstep, ht, hf, hm⟩ := hb.step_issue h hev hrun hrpc
    exact ⟨t, hstep, ht, hm, hf⟩
  next hne =>
    obtain ⟨u, hstep, hu, hbu, hr, hm⟩ : ∃ u, step s = .next u ∧ Producing u src0 ∧
        BetweenWrites u src0 n ∧ u.rpc.toNat = s.writeAt (n % (2 * s.params.pageCount)) ∧
        sameMemory s u := by
      obtain ⟨rfl, hsync⟩ | hwrite | ⟨-, hz, hjump⟩ := hb.rpc
      · refine hb.step_to_write h (t := { s with rpc := s.rpc + 4 })
          (step_producer_fetched hev h.no_error hb.inactive hrun (h.fetch_sync hsync)) ?_
        show (s.rpc + 4).toNat = s.progBase.toNat + 4 + 8 * (0 % (2 * s.params.pageCount))
        rw [show (4 : PhysPtr) = BitVec.ofNat 33 4 from rfl, ptr_add_toNat (by omega), hsync,
          Nat.zero_mod]
      · exact absurd hwrite hne
      · obtain ⟨hfetch, hto, hal⟩ := h.fetch_jump hjump
        refine hb.step_to_write h (t := { s with rpc := (s.progBase + 4).setWidth 33 })
          ((step_producer_fetched hev h.no_error hb.inactive hrun hfetch).trans
            (if_neg (by simpa using hal))) ?_
        rw [hz]; exact (setWidth_ptr_toNat _).trans hto
    exact ⟨u, hstep, hu, hm, hbu, hr⟩

/-! ### Every turn of the producer -/

/-- A stopped and drained producer passes (log 15). -/
theorem step_producer_drained {s : State} (hev : s.nextEvent = .producer)
    (ha : s.pw.active = false) (hr : s.run = false) : step s = .next s.consumed :=
  step_producer_disabled hev (by simp [State.producerEnabled, ha, hr])

/-- A turn of the producer of the generated program answers a next state and keeps the program. -/
theorem Producing.step_producer {s : State} {src0 : Nat} (h : Producing s src0)
    (hev : s.nextEvent = .producer) : ∃ t, step s = .next t ∧ Producing t src0 := by
  obtain ⟨n, d, hf⟩ | ⟨n, hb⟩ := h.position
  · by_cases hd : d < clusterSize s.params
    · obtain ⟨t, hstep, ht, -⟩ := hf.step_transfer h hev hd
      exact ⟨t, hstep, ht⟩
    · obtain ⟨t, hstep, ht, -⟩ := hf.step_complete h hev hd
      exact ⟨t, hstep, ht⟩
  · by_cases hrun : s.run = true
    · obtain ⟨t, hstep, ht, -⟩ := hb.step_fetched h hev hrun
      exact ⟨t, hstep, ht⟩
    · have hnext : BetweenWrites s.consumed src0 n := hb.congr rfl rfl rfl rfl rfl rfl
      exact ⟨_, step_producer_drained hev hb.inactive (by simpa using hrun),
        h.move rfl rfl rfl (fun _ _ _ => rfl) h.no_error (.inr ⟨n, hnext⟩)⟩

/-- Settles O50: each kind of step has its lemma above, and a state has one successor. -/
theorem generatedProgramRunsForEver : Obligations.GeneratedProgramRunsForEver := by
  intro s src0 h hev
  obtain ⟨t, hstep, ht⟩ := h.step_producer hev
  refine ⟨t, hstep, ht, ht.counter_lt, fun n d k hf hk => ?_, fun n hb hrun => ?_, fun ha hr => ?_⟩
  · subst hk
    split
    next hd =>
      obtain ⟨u, hu, -, hfu, hbytes⟩ := hf.step_transfer h hev hd
      obtain rfl := step_unique hu hstep
      obtain ⟨hpage, hoff⟩ := byte_place (p := s.params.pageCount) (n := n) hd
      rw [h.pageSize_eq, hpage, hoff]
      exact ⟨hfu, hbytes⟩
    next hd =>
      obtain ⟨u, hu, -, hbu, hm⟩ := hf.step_complete h hev hd
      obtain rfl := step_unique hu hstep
      exact ⟨hbu, hm⟩
  · obtain ⟨u, hu, -, hm, hpos⟩ := hb.step_fetched h hev hrun
    obtain rfl := step_unique hu hstep
    exact ⟨hm, hpos⟩
  · exact step_unique hstep (step_producer_drained hev ha hr)

end Sys2Proof.Machine
end

section
/-! SUPPORT. The other agents beside the generated program, and the bookkeeping of completed pages
(10_state.md R41; 20_memory.md R81; 42_ring_arithmetic.md R169). -/

namespace Sys2Proof.Machine

open Sys2Proof

/-! ### The program region -/

/-- A read engine writes PHYS inside the ring only (20_memory.md R65). -/
theorem EngineStep.phys_read {s t : State} {i : Nat} (h : EngineStep s i t) {x : Nat}
    (hx : s.inRing x = false) : t.phys.read x = s.phys.read x := by
  cases h
  case zero a _ _ _ ha =>
    exact Memory.read_write_ne _ _ (fun hxa => by rw [hxa, ha] at hx; cases hx)
  case fail => rw [takeException_callerBufferFault]
  all_goals rfl

/-- No command but `GENERATE` writes PHYS, and it is refused while the producer can step
(41_generator.md R147; log 16). -/
theorem CommandStep.phys_of_enabled {s t : State} (h : CommandStep s t)
    (he : s.producerEnabled = true) : t.phys = s.phys := by
  cases h
  case accepted nb sid len dst _ => unfold acceptRead; dsimp only; split <;> rfl
  case generated sid hoff _ => rw [he] at hoff; cases hoff
  all_goals rfl

/-- Two runs of bytes that do not meet have no byte in common. -/
theorem rangesMeet_false {a n b m x : Nat} (h : rangesMeet a n b m = false) (hlo : b ≤ x)
    (hhi : x < b + m) : ¬(a ≤ x ∧ x < a + n) := by
  simp only [rangesMeet, decide_eq_false_iff_not] at h
  omega

/-- While the producer can step on a legal map, no other agent writes the program region
(20_memory.md R81). -/
theorem OtherStep.program_kept {s t : State} {e : Event} (h : OtherStep s e t)
    (he : s.producerEnabled = true) (hm : s.mapOk = true) {x : Nat} (hlo : s.progBase.toNat ≤ x)
    (hhi : x < s.progBase.toNat + progSize s.params) : t.phys.read x = s.phys.read x := by
  have hx : s.inRing x = false := by
    by_contra hc
    obtain hlt | hge := State.inRing_not_program hm (by simpa using hc) <;> omega
  cases h
  case engine i h => exact (engineStep_next h).phys_read hx
  case command w i hd h => rw [(exec_command_next hd h).phys_of_enabled he]
  case regRead off h => obtain ⟨r, -, rfl⟩ := regRead_next h; rfl
  case regWrite off v h =>
    obtain ⟨-, -, -, -, hphys, -⟩ := regWrite_frame h
    rw [hphys]
  case hostStore a vs h =>
    obtain ⟨-, hprog, -, rfl⟩ := hostStore_next h
    exact Memory.read_writeBytes_out _ _ _ _ (rangesMeet_false (hprog he) hlo hhi)
  case hostStoreDst a vs h => obtain ⟨-, rfl⟩ := hostStoreDst_next h; rfl
  all_goals rfl

/-! ### Steps beside the generated program -/

/-- A producer that can step makes the block live. -/
theorem State.live_of_enabled {s : State} (h : s.producerEnabled = true) : s.live = true := by
  simp only [State.producerEnabled, Bool.and_eq_true, Bool.or_eq_true] at h
  obtain ⟨-, ha | hr⟩ := h <;> simp [State.live, *]

/-- The generated program stands through a step that leaves the producer and the program region
alone. -/
theorem Producing.kept {s t : State} {src0 : Nat} (h : Producing s src0) (hk : ProducerKept s t)
    (hl : s.live = true) (hr : ∀ x, s.progBase.toNat ≤ x →
      x < s.progBase.toNat + progSize s.params → t.phys.read x = s.phys.read x) :
    Producing t src0 := by
  obtain ⟨hb, ha⟩ := hk.map_of_live hl
  refine h.move hk.params hb ha hr (hk.riscErr.trans h.no_error) ?_
  obtain ⟨n, d, hf⟩ | ⟨n, hw⟩ := h.position
  · exact .inl ⟨n, d, hf.congr hk.params hb ha hk.rpc hk.pw hk.gpcnt hk.srcIdx⟩
  · exact .inr ⟨n, hw.congr hk.params hb hk.rpc hk.pw hk.gpcnt hk.srcIdx⟩

/-- The start action puts the producer at the first instruction of the image
(44_lifecycle_config.md R221). -/
theorem Producing.start {s : State} {src0 : Nat} (h : Producing s src0) :
    Producing s.consumed.started s.srcIdx ∧ BetweenWrites s.consumed.started s.srcIdx 0 ∧
      s.consumed.started.fetch = .ok .sync := by
  have hrpc : s.consumed.started.rpc.toNat = s.consumed.started.progBase.toNat :=
    setWidth_ptr_toNat _
  have hb : BetweenWrites s.consumed.started s.srcIdx 0 :=
    { inactive := rfl
      rpc := .inl ⟨rfl, hrpc⟩
      source := by rw [Nat.zero_mul]; rfl
      counter := by rw [Nat.zero_div, Nat.zero_mod]; rfl }
  have hp : Producing s.consumed.started s.srcIdx :=
    h.move rfl rfl rfl (fun _ _ _ => rfl) h.no_error (.inr ⟨0, hb⟩)
  exact ⟨hp, hb, hp.fetch_sync hrpc⟩

/-- Settles O51: the start action while draining, the producer's own step (O50), and the steps that
leave the producer and its program alone. -/
theorem noAgentDisturbsTheGeneratedProgram : Obligations.NoAgentDisturbsTheGeneratedProgram := by
  intro s t src0 h hen hne hstep
  split
  next hstart =>
    obtain ⟨hr, v, hev, hv⟩ := hstart
    obtain rfl := step_start hev hr hv hstep
    obtain ⟨hp, hb, hf⟩ := h.start
    exact ⟨hp, hb, hf, rfl⟩
  next hstart =>
    by_cases hev : s.nextEvent = .producer
    · obtain ⟨u, hu, hp⟩ := h.step_producer hev
      obtain rfl := step_unique hu hstep
      exact ⟨hp, fun hc => absurd hev hc⟩
    · obtain ⟨v, hw, hv, hr, -, -⟩ | hk := step_other_kept hev hne hstep
      · exact absurd ⟨hr, v, hw, hv⟩ hstart
      · have hregion : ∀ x, s.progBase.toNat ≤ x →
            x < s.progBase.toNat + progSize s.params → t.phys.read x = s.phys.read x :=
          fun x hlo hhi => (step_other_next hev hstep).program_kept hen h.map hlo hhi
        exact ⟨h.kept hk (State.live_of_enabled hen) hregion,
          fun _ => ⟨hk.rpc, hk.pw, hk.gpcnt, hk.srcIdx⟩⟩

/-! ### The bookkeeping of completed pages -/

/-- Without a start action and without a completion `NC` stands. -/
theorem Ledger.next_nc_same {g : Ledger} {s t : State} (hr : t.run = true → s.run = true)
    (hc : s.completesNow = false) : (g.next s t).nc = g.nc := by
  simp only [Ledger.next]
  rw [if_neg (fun h => by rw [hr h.2] at h; cases h.1), hc]
  rfl

/-- The start action restarts `NC`. -/
theorem Ledger.next_nc_start {g : Ledger} {s t : State} (h0 : s.run = false) (h1 : t.run = true) :
    (g.next s t).nc = 0 := if_pos ⟨h0, h1⟩

/-- A completion counts when the `WRITE` issued last is a second-half one. -/
theorem Ledger.next_nc_complete {g : Ledger} {s t : State} (hr : t.run = s.run)
    (hc : s.completesNow = true) :
    (g.next s t).nc = if g.secondHalf s = true then g.nc + 1 else g.nc := by
  simp only [Ledger.next, hr, hc, Bool.true_and]
  rw [if_neg (fun h => by rw [h.1] at h; cases h.2)]

/-- Without an issue the noted target stands. -/
theorem Ledger.next_target_same {g : Ledger} {s t : State}
    (h : s.pw.active = false → t.pw.active = false) : (g.next s t).target = g.target :=
  if_neg (fun hi => by rw [h hi.1] at hi; cases hi.2)

/-- An issue notes its target. -/
theorem Ledger.next_target_issue {g : Ledger} {s t : State} (h0 : s.pw.active = false)
    (h1 : t.pw.active = true) : (g.next s t).target = t.pw.addr.toNat := if_pos ⟨h0, h1⟩

/-- Beside `WRITE` number `n` in flight the bookkeeping fits when `NC` is its page and the noted
target the half of the page it fills. -/
theorem InFlight.agrees_iff {s : State} {src0 n d : Nat} (h : InFlight s src0 n d) (g : Ledger) :
    Agrees g s ↔ g.nc % s.params.pageCount = n / 2 % s.params.pageCount ∧
      g.target = (s.page (n / 2 % s.params.pageCount)).toNat + n % 2 * clusterSize s.params := by
  have hm := h.moved
  have hsum : s.pw.addr.toNat + s.pw.left.toNat =
      (s.page (n / 2 % s.params.pageCount)).toNat + n % 2 * clusterSize s.params +
        clusterSize s.params := by rw [h.addr, h.left]; omega
  constructor
  · rintro ⟨hc, ht⟩
    have ht := ht h.active
    exact ⟨by rw [← hc, h.counter], by omega⟩
  · rintro ⟨hc, ht⟩
    exact ⟨by rw [hc, h.counter], fun _ => by omega⟩

/-- Between `WRITE`s the bookkeeping fits when `NC` is the page of the next one. -/
theorem BetweenWrites.agrees_iff {s : State} {src0 n : Nat} (h : BetweenWrites s src0 n)
    (g : Ledger) :
    Agrees g s ↔ g.nc % s.params.pageCount = n / 2 % s.params.pageCount := by
  constructor
  · rintro ⟨hc, -⟩; rw [← hc, h.counter]
  · intro hc
    exact ⟨by rw [hc, h.counter], fun ha => by rw [h.inactive] at ha; cases ha⟩

/-- A target in the image is that of a second-half `WRITE` exactly for the odd `WRITE`s: no page
begins in the middle of another. -/
theorem Producing.secondHalf_iff {s : State} {src0 i r : Nat} (h : Producing s src0) {g : Ledger}
    (hi : i < s.params.pageCount) (hr : r < 2)
    (ht : g.target = (s.page i).toNat + r * clusterSize s.params) :
    g.secondHalf s = true ↔ r = 1 := by
  obtain ⟨hi', hpage⟩ := h.page_eq_getElem hi
  obtain ⟨hlo, -⟩ := h.clusterSize_bounds
  have hz := h.pageSize_eq
  simp only [Ledger.secondHalf, List.any_eq_true, decide_eq_true_eq]
  constructor
  · rintro ⟨b, hb, htb⟩
    obtain ⟨k, hk, rfl⟩ := List.getElem_of_mem hb
    rw [ht, hpage] at htb
    by_contra hne
    obtain rfl : r = 0 := by omega
    by_cases hik : i = k
    · subst hik; omega
    · obtain hd | hd := State.pages_disjoint h.map hi' hk hik <;> omega
  · rintro rfl
    exact ⟨s.page i, hpage ▸ List.getElem_mem hi', by omega⟩

/-- A step of the producer of the generated program keeps the bookkeeping. -/
theorem Agrees.step_producer {s t : State} {src0 : Nat} {g : Ledger} (h : Producing s src0)
    (ha : Agrees g s) (hev : s.nextEvent = .producer) (hen : s.producerEnabled = true)
    (hstep : step s = .next t) : Agrees (g.next s t) t := by
  have hturn := step_producer_next hev hstep
  have hparams : t.params = s.params := hturn.params
  have hpage : ∀ i, t.page i = s.page i := hturn.page
  have hrun : t.run = s.run := hturn.run
  obtain ⟨n, d, hf⟩ | ⟨n, hb⟩ := h.position
  · obtain ⟨hnc, htarget⟩ := (hf.agrees_iff g).mp ha
    have hkeep : (g.next s t).target = g.target :=
      Ledger.next_target_same (fun h0 => by rw [hf.active] at h0; cases h0)
    have hleft := hf.left
    by_cases hd : d < clusterSize s.params
    · obtain ⟨u, hu, -, hfu, -⟩ := hf.step_transfer h hev hd
      obtain rfl := step_unique hu hstep
      have hc : s.completesNow = false := by
        have : s.pw.left ≠ 0 := fun h0 => by rw [h0] at hleft; simp at hleft; omega
        simp only [State.completesNow, decide_eq_false this, Bool.and_false]
      rw [hfu.agrees_iff, Ledger.next_nc_same (fun h => hrun ▸ h) hc, hkeep, hparams, hpage]
      exact ⟨hnc, htarget⟩
    · obtain ⟨u, hu, -, hbu, -⟩ := hf.step_complete h hev hd
      obtain rfl := step_unique hu hstep
      have hc : s.completesNow = true := by
        have : s.pw.left = 0 := BitVec.eq_of_toNat_eq (by rw [hleft]; simp; omega)
        simp [State.completesNow, hev, h.no_error, hf.active, this]
      have hpar := Nat.mod_lt n (show 2 > 0 by omega)
      have hhalf := h.secondHalf_iff (h.page_index_lt n) hpar htarget
      rw [hbu.agrees_iff, Ledger.next_nc_complete hrun hc, hparams]
      split
      next h1 =>
        rw [show (n + 1) / 2 = n / 2 + 1 by have := hhalf.mp h1; omega, ← Nat.mod_add_mod, hnc,
          Nat.mod_add_mod]
      next h0 => rw [show (n + 1) / 2 = n / 2 by rw [hhalf] at h0; omega, hnc]
  · have hnc := (hb.agrees_iff g).mp ha
    have hc : s.completesNow = false := by simp [State.completesNow, hb.inactive]
    have hnc' : (g.next s t).nc = g.nc := Ledger.next_nc_same (fun h => hrun ▸ h) hc
    have hr : s.run = true := by
      simpa [State.producerEnabled, h.no_error, hb.inactive] using hen
    obtain ⟨u, hu, -, -, hpos⟩ := hb.step_fetched h hev hr
    obtain rfl := step_unique hu hstep
    split at hpos
    · rw [hpos.agrees_iff, hnc', Ledger.next_target_issue hb.inactive hpos.active, hpos.addr,
        hparams]
      exact ⟨hnc, rfl⟩
    · rw [hpos.1.agrees_iff, hnc', hparams]
      exact hnc

/-- A step that leaves the producer alone keeps the bookkeeping. -/
theorem Agrees.kept {s t : State} {g : Ledger} (ha : Agrees g s) (hk : ProducerKept s t)
    (hev : s.nextEvent ≠ .producer) : Agrees (g.next s t) t := by
  have hc : s.completesNow = false := by simp [State.completesNow, hev]
  obtain ⟨hcount, htarget⟩ := ha
  refine ⟨?_, fun h => ?_⟩
  · rw [Ledger.next_nc_same hk.run_of_run hc, hk.gpcnt, hk.params, hcount]
  · rw [Ledger.next_target_same (fun h0 => by rw [hk.pw, h0]), hk.params, hk.pw]
    exact htarget (hk.pw ▸ h)

/-- The start action begins the bookkeeping. -/
theorem Agrees.start {s : State} (g : Ledger) (hr : s.run = false) :
    Agrees (g.next s s.consumed.started) s.consumed.started ∧
      (g.next s s.consumed.started).nc = 0 := by
  have hnc : (g.next s s.consumed.started).nc = 0 := Ledger.next_nc_start hr rfl
  exact ⟨⟨by rw [hnc, Nat.zero_mod]; rfl, nofun⟩, hnc⟩

/-- Settles O54. -/
theorem counterIsCompletionsModuloPages : Obligations.CounterIsCompletionsModuloPages := by
  refine ⟨fun s t src0 g h hen ha hne hstep => ?_, fun s t v g hr hev hv hstep => ?_⟩
  · by_cases hev : s.nextEvent = .producer
    · exact Agrees.step_producer h ha hev hen hstep
    · obtain ⟨-, -, -, hr, -, rfl⟩ | hk := step_other_kept hev hne hstep
      · exact (Agrees.start g hr).1
      · exact ha.kept hk hev
  · obtain rfl := step_start hev hr hv hstep
    exact Agrees.start g hr

end Sys2Proof.Machine
end

section
/-! SUPPORT. Every step keeps the invariant of the machine, agent by agent (10_state.md R21, R32 to
R34; 43_session_commands.md R185 to R194). -/

namespace Sys2Proof.Machine

open Sys2Proof

/-! ### The producer -/

/-- A byte of the ring lies inside PHYS (20_memory.md R65). -/
theorem State.inRing_lt {s : State} {a : Nat} (h : s.inRing a = true) : a < 2 ^ 32 := by
  simp only [State.inRing, Bool.and_eq_true, decide_eq_true_eq] at h
  exact h.1

/-- One byte written to the ring keeps the memory part. -/
theorem MemoryInv.writeRing {s t : State} (h : MemoryInv s) {a : Nat} (v : Byte)
    (ha : s.inRing a = true) (hp : t.phys = s.phys.write a v) (hd : t.dst = s.dst) : MemoryInv t :=
  h.writePhys a [v] (by have := State.inRing_lt ha; simp; omega) hp hd

/-- A step that leaves every slot alone keeps the invariant when it keeps the other parts. -/
theorem State.Inv.slots_kept {s t : State} (h : s.Inv) (hp : t.params = s.params)
    (ha : t.pageAddr.length = s.pageAddr.length) (hs : t.sess = s.sess) (hr : t.rd = s.rd)
    (hmem : MemoryInv t) (hprod : ProducerInv t) : t.Inv :=
  ⟨hmem, h.shape.congr hp ha (congrArg _ hs) (congrArg _ hr), hprod, slots_congr hp hs hr h.slots⟩

/-- An instruction fetched keeps the producer's part (10_state.md R21). -/
theorem ProducerInv.fetched {s t : State} {i : Instr} (h : ProducerInv s) (he : s.riscErr = false)
    (hf : s.fetch = .ok i) (hx : exec i s = .next t) : ProducerInv t := by
  obtain ⟨hal, h4, -⟩ := fetch_ok_place hf
  simp only [State.inProgram, decide_eq_true_eq] at h4
  obtain rfl | ⟨irq, cc, bc, addr, hcc, h8, rfl⟩ | ⟨target, ht, rfl⟩ := fetched_next hf hx
  · have hadd : (s.rpc + 4).toNat = s.rpc.toNat + 4 := ptr_add_toNat (k := 4) (by omega)
    exact ⟨fun _ => hadd ▸ by omega, hadd ▸ by omega, h.addr_le, h.legal_cc, h.halted⟩
  · simp only [State.inProgram, decide_eq_true_eq] at h8
    have hadd : (s.rpc + 8).toNat = s.rpc.toNat + 8 := ptr_add_toNat (k := 8) (by omega)
    have haddr : (addr.setWidth 33 : PhysPtr).toNat ≤ 2 ^ 32 := by
      rw [setWidth_ptr_toNat]; omega
    exact ⟨fun _ => hadd ▸ by omega, hadd ▸ by omega, haddr, fun _ => hcc,
      fun hc => by rw [show s.riscErr = true from hc] at he; cases he⟩
  · have hto : (target.setWidth 33 : PhysPtr).toNat = target.toNat := setWidth_ptr_toNat target
    exact ⟨fun _ => hto ▸ ht, hto ▸ by omega, h.addr_le, h.legal_cc, h.halted⟩

/-- A step of the producer keeps the invariant. -/
theorem ProducerStep.inv {s t : State} (hs : ProducerStep s t) (h : s.Inv) : t.Inv := by
  have hmem := h.memory
  have hprod := h.producer
  cases hs
  case disabled => exact h
  case complete =>
    exact h.slots_kept rfl rfl rfl rfl (hmem.congr rfl rfl)
      ⟨hprod.aligned, hprod.rpc_le, hprod.addr_le, nofun, fun _ => rfl⟩
  case transfer _ _ _ hx =>
    obtain ⟨hring, rfl⟩ := transferStep_next hx
    have hlt := State.inRing_lt hring
    have hadd : (s.pw.addr + 1).toNat = s.pw.addr.toNat + 1 := ptr_add_toNat (k := 1) (by omega)
    exact h.slots_kept rfl rfl rfl rfl (hmem.writeRing s.nextSample hring rfl rfl)
      ⟨hprod.aligned, hprod.rpc_le, hadd ▸ by omega, hprod.legal_cc, hprod.halted⟩
  case fetched i he _ _ hf hx =>
    have hprod' := hprod.fetched he hf hx
    obtain rfl | ⟨_, _, _, _, -, -, rfl⟩ | ⟨_, -, rfl⟩ := fetched_next hf hx
    all_goals exact h.slots_kept rfl rfl rfl rfl (hmem.congr rfl rfl) hprod'
  case error _ _ ha _ _ =>
    exact h.slots_kept rfl rfl rfl rfl (hmem.congr rfl rfl)
      ⟨hprod.aligned, hprod.rpc_le, hprod.addr_le, hprod.legal_cc, fun _ => ha⟩

/-- A step that leaves the producer alone keeps its part. -/
theorem ProducerInv.kept {s t : State} (h : ProducerInv s) (hk : ProducerKept s t) :
    ProducerInv t := by
  obtain ⟨hal, hrpc, haddr, hcc, hhalt⟩ := h
  constructor <;> simp only [hk.rpc, hk.pw, hk.riscErr]
  · exact fun hr => hal (hk.run_of_run hr)
  all_goals assumption

/-! ### One slot -/

/-- What `BusyInv` says, of a session and an engine apart from the state that holds them
(43_session_commands.md R185 to R194). -/
structure BusyFits (p : Params) (v : Session) (e : ReadEngine) : Prop where
  is_open : v.valid = true
  target : e.tgt = targetPage p v v.pos.toNat
  pos_room : v.pos.toNat + e.rem.toNat < 2 ^ 64
  dst_room : e.dptr.toNat + e.rem.toNat ≤ 2 ^ 64
  count_room : e.rv.toNat + e.rem.toNat < 2 ^ 32
  chunk : e.phase.inChunk = true →
    e.rem ≠ 0 ∧ e.cidx ≤ e.clen ∧ e.clen = chunkLen p v.pos.toNat e.rem.toNat
  staged : e.phase = .cdeliver → e.cidx = e.clen
  polling : e.phase = .poll → e.nb = false

/-- What `SlotInv` says, of a session and an engine (10_state.md R33, R34). -/
structure SlotFits (p : Params) (v : Session) (e : ReadEngine) : Prop where
  staging : e.cb.length = p.pageSize
  anchored : v.valid = true → v.initialPage.toNat < p.pageCount
  busy : e.phase ≠ .idle → BusyFits p v e

theorem busyInv_iff {s : State} {i : Nat} :
    BusyInv s i ↔ BusyFits s.params (s.session i) (s.engine i) :=
  ⟨fun ⟨a, b, c, d, e, f, g, h⟩ => ⟨a, b, c, d, e, f, g, h⟩,
    fun ⟨a, b, c, d, e, f, g, h⟩ => ⟨a, b, c, d, e, f, g, h⟩⟩

theorem slotInv_iff {s : State} {i : Nat} :
    SlotInv s i ↔ SlotFits s.params (s.session i) (s.engine i) :=
  ⟨fun ⟨a, b, c⟩ => ⟨a, b, fun h => busyInv_iff.mp (c h)⟩,
    fun ⟨a, b, c⟩ => ⟨a, b, fun h => busyInv_iff.mpr (c h)⟩⟩

/-- A step that writes one slot keeps the invariant when what it writes fits and it keeps the other
parts. -/
theorem State.Inv.set_slot {s t : State} {i : Nat} {v : Session} {e : ReadEngine} (h : s.Inv)
    (hi : i < s.params.nsess) (hp : t.params = s.params) (ha : t.pageAddr = s.pageAddr)
    (hs : t.sess = s.sess.set i v) (hr : t.rd = s.rd.set i e) (hmem : MemoryInv t)
    (hprod : ProducerInv t) (hfit : SlotFits s.params v e) : t.Inv := by
  have hsess : t.session i = v := by simp [State.session, hs, h.shape.sessions, hi]
  have heng : t.engine i = e := by simp [State.engine, hr, h.shape.engines, hi]
  refine ⟨hmem, h.shape.congr hp (by rw [ha]) (by rw [hs, List.length_set])
    (by rw [hr, List.length_set]), hprod,
    slots_but_one i hp (fun j hj => ?_) (fun j hj => ?_) h.slots
    fun _ => slotInv_iff.mpr (by rw [hp, hsess, heng]; exact hfit)⟩
  · simp [State.session, hs, hj.symm]
  · simp [State.engine, hr, hp, hj.symm]

/-- An idle engine fits any session with an anchor. -/
theorem SlotFits.idle {p : Params} {v : Session} {e : ReadEngine} (hcb : e.cb.length = p.pageSize)
    (hv : v.valid = true → v.initialPage.toNat < p.pageCount) (hp : e.phase = .idle) :
    SlotFits p v e := ⟨hcb, hv, fun hc => absurd hp hc⟩

/-- A chunk is part of what is requested, and `POS` has room for it. -/
theorem BusyFits.commit_pos {p : Params} {v : Session} {e : ReadEngine} (h : BusyFits p v e)
    (hp : e.phase = .czero) : e.clen ≤ e.rem.toNat ∧
      (v.pos + BitVec.ofNat 64 e.clen).toNat = v.pos.toNat + e.clen := by
  obtain ⟨-, -, hclen⟩ := h.chunk (by rw [hp]; rfl)
  have hle : e.clen ≤ e.rem.toNat := hclen ▸ Nat.min_le_right _ _
  have hroom := h.pos_room
  exact ⟨hle, by rw [BitVec.toNat_add, BitVec.toNat_ofNat]; omega⟩

/-- The slot a commit leaves: the chunk moves from what is requested to what is done
(43_session_commands.md R192). -/
theorem BusyFits.commit {s : State} {i : Nat} (h : BusyFits s.params (s.session i) (s.engine i))
    (hp : (s.engine i).phase = .czero) :
    BusyFits s.params
      { s.session i with pos := (s.session i).pos + BitVec.ofNat 64 (s.engine i).clen }
      (committedEngine i s) := by
  obtain ⟨hle, hpos'⟩ := h.commit_pos hp
  obtain ⟨hopen, -, hpos, hdst, hcount, -, -, -⟩ := h
  have hlt := (s.engine i).rem.isLt
  have hrem : ((s.engine i).rem - BitVec.ofNat 32 (s.engine i).clen).toNat =
      (s.engine i).rem.toNat - (s.engine i).clen := by
    rw [BitVec.toNat_sub_of_le (by rw [BitVec.le_def, BitVec.toNat_ofNat]; omega),
      BitVec.toNat_ofNat, Nat.mod_eq_of_lt (by omega)]
  have hdst' : ((s.engine i).dptr + BitVec.ofNat 64 (s.engine i).clen).toNat ≤
      (s.engine i).dptr.toNat + (s.engine i).clen := by
    rw [BitVec.toNat_add, BitVec.toNat_ofNat]; omega
  have hrv : ((s.engine i).rv + BitVec.ofNat 32 (s.engine i).clen).toNat =
      (s.engine i).rv.toNat + (s.engine i).clen := by
    rw [BitVec.toNat_add, BitVec.toNat_ofNat]; omega
  constructor <;> simp only [committedEngine, hrem, hpos', hrv]
  · exact hopen
  · rfl
  · omega
  · omega
  · omega
  all_goals nofun

/-! ### A read engine -/

/-- An engine step keeps the memory part. -/
theorem EngineStep.memory {s t : State} {i : Nat} (hs : EngineStep s i t) (h : MemoryInv s) :
    MemoryInv t := by
  cases hs
  case deliver _ _ ha =>
    simp only [State.admits, Bool.and_eq_true, decide_eq_true_eq] at ha
    exact h.writeDst _ (chunkBytes (s.engine i)) (by simpa [chunkBytes] using ha.1) rfl rfl
  case fail =>
    have hlt := (s.engine i).dptr.isLt
    rw [takeException_callerBufferFault]
    exact h.writeDst _ (s.freeBytes (s.engine i).dptr.toNat (s.engine i).clen)
      (by rw [State.freeBytes_length]; omega) rfl rfl
  case zero a _ _ _ ha => exact h.writeRing 0 ha rfl rfl
  all_goals exact h.congr rfl rfl

/-- What an engine step leaves in its slot fits. -/
theorem EngineStep.slot {s t : State} {i : Nat} (hs : EngineStep s i t)
    (h : SlotFits s.params (s.session i) (s.engine i)) :
    ∃ v e, t.sess = s.sess.set i v ∧ t.rd = s.rd.set i e ∧ SlotFits s.params v e := by
  have hsess : s.sess = s.sess.set i (s.session i) := (set_getD_self ..).symm
  have hrd : s.rd = s.rd.set i (s.engine i) := (set_getD_self ..).symm
  obtain ⟨hcb, hanchor, hbusy⟩ := h
  have busy {ph : Phase} (hp : (s.engine i).phase = ph) (hne : ph ≠ .idle) :=
    hbusy (by rw [hp]; exact hne)
  cases hs
  case none => exact ⟨_, _, hsess, hrd, hcb, hanchor, hbusy⟩
  case finish => exact ⟨_, _, hsess, rfl, .idle hcb hanchor rfl⟩
  case fail =>
    rw [takeException_callerBufferFault]
    exact ⟨_, _, hsess, rfl, .idle hcb hanchor rfl⟩
  case chunk _ hp hr =>
    have b := busy hp nofun
    exact ⟨_, _, hsess, rfl, hcb, hanchor, fun _ =>
      { b with chunk := fun _ => ⟨hr, Nat.zero_le _, rfl⟩, staged := nofun, polling := nofun }⟩
  case wait _ hp hnb =>
    have b := busy hp nofun
    exact ⟨_, _, hsess, rfl, hcb, hanchor, fun _ =>
      { b with chunk := nofun, staged := nofun, polling := fun _ => hnb }⟩
  case stage a _ hp hk _ =>
    have b := busy hp nofun
    obtain ⟨hr, -, hclen⟩ := b.chunk (by rw [hp]; rfl)
    exact ⟨_, _, hsess, rfl, (List.length_set ..).trans hcb, hanchor, fun _ =>
      { b with chunk := fun _ => ⟨hr, hk, hclen⟩, staged := fun hc => nomatch hp.symm.trans hc
               polling := b.polling }⟩
  case staged _ hp hk =>
    have b := busy hp nofun
    obtain ⟨hr, hle, hclen⟩ := b.chunk (by rw [hp]; rfl)
    exact ⟨_, _, hsess, rfl, hcb, hanchor, fun _ =>
      { b with chunk := fun _ => ⟨hr, hle, hclen⟩, staged := fun _ => Nat.le_antisymm hle hk
               polling := nofun }⟩
  case deliver _ hp _ =>
    have b := busy hp nofun
    obtain ⟨hr, -, hclen⟩ := b.chunk (by rw [hp]; rfl)
    exact ⟨_, _, hsess, rfl, hcb, hanchor, fun _ =>
      { b with chunk := fun _ => ⟨hr, Nat.zero_le _, hclen⟩, staged := nofun, polling := nofun }⟩
  case zero a _ hp hk _ =>
    have b := busy hp nofun
    obtain ⟨hr, -, hclen⟩ := b.chunk (by rw [hp]; rfl)
    exact ⟨_, _, hsess, rfl, hcb, hanchor, fun _ =>
      { b with chunk := fun _ => ⟨hr, hk, hclen⟩, staged := fun hc => nomatch hp.symm.trans hc
               polling := b.polling }⟩
  case commit _ hp _ =>
    exact ⟨_, _, rfl, rfl, hcb, hanchor, fun _ => (busy hp nofun).commit hp⟩
  case poll _ hp =>
    have b := busy hp nofun
    exact ⟨_, _, hsess, rfl, hcb, hanchor, fun _ =>
      { b with chunk := nofun, staged := nofun, polling := nofun }⟩

/-- A step of a read engine leaves the address registers alone. -/
theorem EngineStep.pageAddr {s t : State} {i : Nat} (h : EngineStep s i t) :
    t.pageAddr = s.pageAddr := by
  cases h
  case fail => rw [takeException_callerBufferFault]
  all_goals rfl

/-- A step of a read engine keeps the invariant. -/
theorem EngineStep.inv {s t : State} {i : Nat} (hs : EngineStep s i t) (h : s.Inv) : t.Inv := by
  obtain hi | hi := Nat.lt_or_ge i s.params.nsess
  · obtain ⟨v, e, hsess, hrd, hfit⟩ := hs.slot (slotInv_iff.mp (h.slots i hi))
    exact h.set_slot hi hs.kept.params hs.pageAddr hsess hrd (hs.memory h.memory)
      (h.producer.kept hs.kept) hfit
  · cases hs
    case none => exact h
    all_goals omega

end Sys2Proof.Machine
end

section
/-! SUPPORT. The command decoder and the host keep the invariant, then the statement (10_state.md
R21, R32 to R34). -/

namespace Sys2Proof.Machine

open Sys2Proof

/-! ### The command decoder -/

/-- The snapshot of `OPEN` names a page (43_session_commands.md R181). -/
theorem State.openPage_lt {s : State} (h : s.params.valid) :
    s.openPage.toNat < s.params.pageCount := by
  have hlt := pageCount_lt_of_valid h
  obtain ⟨-, -, -, hp, -⟩ := h
  have hpage : initialPageOf s.params.pageCount s.gpcnt.toNat < s.params.pageCount := by
    have h0 := Int.emod_nonneg ((s.gpcnt.toNat : Int) - 1)
      (show (s.params.pageCount : Int) ≠ 0 by omega)
    have h1 := Int.emod_lt_of_pos ((s.gpcnt.toNat : Int) - 1)
      (show (0 : Int) < s.params.pageCount by omega)
    unfold initialPageOf; omega
  rw [State.openPage, BitVec.toNat_ofNat, Nat.mod_eq_of_lt (by omega)]
  exact hpage

/-- `GENERATE` writes inside PHYS (41_generator.md R141). -/
theorem MemoryInv.writeImage {s : State} (h : MemoryInv s) (hv : s.params.valid)
    (hb : s.progBase.toNat + progSize s.params ≤ 2 ^ 32) : MemoryInv s.writeImage := by
  have hzero : MemoryInv
      (s.physWriteBytes s.progBase.toNat (List.replicate (progSize s.params) 0)) :=
    h.writePhys _ _ (by rw [List.length_replicate]; exact hb) rfl rfl
  have hlen := imageBytes_length_le hv
  exact hzero.writePhys s.progBase.toNat (imageBytes s) (by omega) rfl rfl

/-- A closed session's engine is idle. -/
theorem SlotFits.idle_of_closed {p : Params} {v : Session} {e : ReadEngine} (h : SlotFits p v e)
    (hv : v.valid = false) : e.phase = .idle := by
  by_contra hne
  have hopen := (h.busy hne).is_open
  rw [hv] at hopen; cases hopen

/-- An accepted `READ` fits its slot (43_session_commands.md R186). -/
theorem State.Inv.accept {s : State} (h : s.Inv) {nb : Bool} {sid : Slot} {len : Word} {dst : Long}
    (hc : readCheck sid len dst s = none) : (acceptRead nb sid len dst s).Inv := by
  obtain ⟨hslot, hpos, hdst⟩ := readCheck_none hc
  obtain ⟨hs, hopen, hidle⟩ := slotCheck_none hslot
  obtain ⟨hcb, hanchor, -⟩ := slotInv_iff.mp (h.slots _ hs)
  have hsess : s.sess = s.sess.set sid.toNat (s.session sid.toNat) := (set_getD_self ..).symm
  have hprod := h.producer.kept (acceptRead_kept nb sid len dst s)
  unfold acceptRead at hprod ⊢
  dsimp only at hprod ⊢
  split at hprod
  next hcaught =>
    rw [if_pos hcaught]
    exact h.set_slot hs rfl rfl hsess rfl (h.memory.congr rfl rfl) hprod (.idle hcb hanchor hidle)
  next hgo =>
    rw [if_neg hgo]
    refine h.set_slot hs rfl rfl hsess rfl (h.memory.congr rfl rfl) hprod
      ⟨hcb, hanchor, fun _ => ?_⟩
    have hlen := len.isLt
    exact ⟨hopen, rfl, hpos, hdst, by simpa [State.latched] using hlen, nofun, nofun, nofun⟩

/-- A step of the command decoder keeps the invariant. -/
theorem CommandStep.inv {s t : State} (hs : CommandStep s t) (h : s.Inv) : t.Inv := by
  have hprod := h.producer.kept hs.kept
  cases hs
  case refused sid r => exact h.slots_kept rfl rfl rfl rfl (h.memory.congr rfl rfl) hprod
  case opened sid hsid hv =>
    have hfit := slotInv_iff.mp (h.slots _ hsid)
    have hrd : s.rd = s.rd.set sid.toNat (s.engine sid.toNat) := (set_getD_self ..).symm
    exact h.set_slot hsid rfl rfl rfl hrd (h.memory.congr rfl rfl) hprod
      (.idle hfit.staging (fun _ => State.openPage_lt h.shape.sizes) (hfit.idle_of_closed hv))
  case closed sid hsid hp =>
    have hfit := slotInv_iff.mp (h.slots _ hsid)
    have hrd : s.rd = s.rd.set sid.toNat (s.engine sid.toNat) := (set_getD_self ..).symm
    exact h.set_slot hsid rfl rfl rfl hrd (h.memory.congr rfl rfl) hprod
      (.idle hfit.staging nofun hp)
  case accepted nb sid len dst hc => exact h.accept hc
  case generated sid _ hb =>
    have hmem := h.memory.writeImage h.shape.sizes hb
    refine h.slots_kept ?_ ?_ ?_ ?_ (hmem.congr ?_ ?_) hprod <;> simp [State.writeImage]

/-! ### The host -/

/-- The start action puts the producer at an aligned address (10_state.md R31). -/
theorem ProducerInv.started {s : State} (h : ProducerInv s) : ProducerInv s.started := by
  have hto : (s.progBase.setWidth 33 : PhysPtr).toNat = s.progBase.toNat := setWidth_ptr_toNat _
  exact ⟨fun _ => hto ▸ s.progBase_aligned, hto ▸ by omega, h.addr_le, nofun, fun _ => rfl⟩

/-- A register write keeps the invariant. -/
theorem regWrite_inv {off : Nat} {v : Word} {s t : State} (hx : regWrite off v s = .next t)
    (h : s.Inv) : t.Inv := by
  obtain ⟨hp, ha, hs, hr, hphys, hdst⟩ := regWrite_frame hx
  refine h.slots_kept hp ha hs hr (h.memory.congr hphys hdst) ?_
  obtain ⟨-, -, -, -, rfl⟩ | hk := regWrite_kept hx
  · exact h.producer.started
  · exact h.producer.kept hk

/-- The sessions a reset event leaves (10_state.md R42). -/
theorem session_resetEvent {s : State} {i : Nat} (h : i < s.params.nsess) :
    (resetEvent s).session i = s.freeSession i := by simp [State.session, resetEvent, h]

/-- The engines a reset event leaves (10_state.md R42). -/
theorem engine_resetEvent {s : State} {i : Nat} (h : i < s.params.nsess) :
    (resetEvent s).engine i = s.freeEngine i := by simp [State.engine, resetEvent, h]

/-- A reset event meets the invariant, whatever the unspecified registers hold. -/
theorem resetEvent_inv {s : State} (h : s.Inv) : (resetEvent s).Inv where
  memory := h.memory.congr rfl rfl
  shape := ⟨h.shape.sizes, by simp [resetEvent], by simp [resetEvent], by simp [resetEvent]⟩
  producer :=
    ⟨nofun, (setWidth_ptr_toNat _).trans_le (by omega), (setWidth_ptr_toNat _).trans_le (by omega),
      nofun, nofun⟩
  slots i hi := by
    rw [slotInv_iff, session_resetEvent (s := s) hi, engine_resetEvent (s := s) hi]
    exact .idle (by simp [State.freeEngine, resetEvent]) nofun rfl

/-- A step of an agent beside the producer keeps the invariant. -/
theorem OtherStep.inv {s t : State} {e : Event} (hs : OtherStep s e t) (h : s.Inv) : t.Inv := by
  cases hs
  case engine i hx => exact (engineStep_next hx).inv h
  case command w i hd hx => exact (exec_command_next hd hx).inv h
  case badCommand w r _ => exact (CommandStep.refused (sidField w) r).inv h
  case regRead off hx =>
    obtain ⟨r, -, rfl⟩ := regRead_next hx
    exact h.slots_kept rfl rfl rfl rfl (h.memory.congr rfl rfl) (h.producer.congr rfl rfl rfl rfl)
  case regWrite off v hx => exact regWrite_inv hx h
  case reset => exact resetEvent_inv h
  case setDstAdmit bs =>
    exact h.slots_kept rfl rfl rfl rfl (h.memory.congr rfl rfl) (h.producer.congr rfl rfl rfl rfl)
  case hostStore a vs hx =>
    obtain ⟨hle, -, -, rfl⟩ := hostStore_next hx
    exact h.slots_kept rfl rfl rfl rfl (h.memory.writePhys a.toNat vs hle rfl rfl)
      (h.producer.congr rfl rfl rfl rfl)
  case hostStoreDst a vs hx =>
    obtain ⟨hle, rfl⟩ := hostStoreDst_next hx
    exact h.slots_kept rfl rfl rfl rfl (h.memory.writeDst a.toNat vs hle rfl rfl)
      (h.producer.congr rfl rfl rfl rfl)

/-- Taking the event off the schedule keeps the invariant. -/
theorem State.Inv.consumed {s : State} (h : s.Inv) : s.consumed.Inv :=
  h.slots_kept rfl rfl rfl rfl (h.memory.congr rfl rfl) (h.producer.congr rfl rfl rfl rfl)

/-- Settles O48. -/
theorem stepKeepsTheInvariant : Obligations.StepKeepsTheInvariant := by
  intro s t h hstep
  obtain ⟨-, hp⟩ | ho := step_next hstep
  · exact hp.inv h.consumed
  · exact ho.inv h.consumed

end Sys2Proof.Machine
end

section
/-! SUPPORT. Rules of the whole machine: the sticky bit, who writes the counter and the sessions,
the registers that decide no step (10_state.md R22, R25, R28, R30, R33), the register map and the reset
values (R37, R42). -/

namespace Sys2Proof.Machine

open Sys2Proof

/-! ### The sticky bit and the counter -/

/-- No step of the producer clears `RISC_ERR`. -/
theorem ProducerStep.riscErr {s t : State} (h : ProducerStep s t) (he : s.riscErr = true) :
    t.riscErr = true := by
  cases h
  case disabled => exact he
  case complete he' _ _ => rw [he] at he'; cases he'
  case transfer he' _ _ _ => rw [he] at he'; cases he'
  case fetched he' _ _ _ _ => rw [he] at he'; cases he'
  case error => rfl

/-- Settles O8. -/
theorem riscErrorLastsUntilReset : Obligations.RiscErrorLastsUntilReset := by
  intro s he
  refine ⟨fun t hstep hne => ?_, fun hev =>
    step_producer_disabled hev (by simp [State.producerEnabled, he])⟩
  by_cases hev : s.nextEvent = .producer
  · exact (step_producer_next hev hstep).riscErr he
  · obtain ⟨-, -, -, -, -, rfl⟩ | hk := step_other_kept hev hne hstep
    · exact he
    · rw [hk.riscErr, he]

/-- Settles O55. -/
theorem counterHasThreeWriters : Obligations.CounterHasThreeWriters := by
  intro s t hstep hchange
  by_cases hev : s.nextEvent = .producer
  · obtain hsame | ⟨ha, hl, hdone⟩ := (step_producer_next hev hstep).gpcnt_or_complete
    · exact absurd hsame hchange
    · exact .inl ⟨hev, ha, hl, hdone⟩
  · by_cases hreset : s.nextEvent = .reset
    · have ho := step_other_next hev hstep
      rw [hreset] at ho
      cases ho
      exact .inr (.inr ⟨hreset, rfl⟩)
    · obtain ⟨v, hw, -, hr, -, rfl⟩ | hk := step_other_kept hev hreset hstep
      · exact .inr (.inl ⟨⟨v, hw⟩, hr, rfl, rfl⟩)
      · exact absurd hk.gpcnt hchange

/-! ### Sessions -/

/-- The step from `s` to `t` leaves session `i` alone unless it opens or closes it. -/
def SessionKept (s t : State) (i : Nat) : Prop :=
  (s.session i).valid = true → (t.session i).valid = true → t.session i = s.session i

/-- A command leaves alone every session it neither opens nor closes. -/
theorem CommandStep.session_kept {s t : State} (h : CommandStep s t) (hshape : ShapeInv s)
    (i : Nat) : SessionKept s t i := by
  intro hs ht
  cases h
  case refused => rfl
  case opened sid hsid hv =>
    have hne : i ≠ sid.toNat := by rintro rfl; rw [hv] at hs; cases hs
    exact s.session_setSession_ne _ hne
  case closed sid hsid _ =>
    have hne : i ≠ sid.toNat := by
      rintro rfl
      have hc : (s.setSession sid.toNat s.closedSession).session sid.toNat = s.closedSession :=
        s.session_setSession_same _ (by rw [hshape.sessions]; exact hsid)
      have hv : ((s.setSession sid.toNat s.closedSession).session sid.toNat).valid = true := ht
      rw [hc] at hv; cases hv
    exact s.session_setSession_ne _ hne
  case accepted => unfold acceptRead; dsimp only; split <;> rfl
  case generated => exact State.session_congr (by simp [State.writeImage]) i

/-- An engine moves its own session forward by its chunk, or leaves the sessions alone
(43_session_commands.md R192). -/
theorem EngineStep.session {s t : State} {i j : Nat} (h : EngineStep s j t) :
    t.session i = s.session i ∨ (i = j ∧ j < s.params.nsess ∧ (s.engine j).phase = .czero ∧
      t = commitStep j s) := by
  cases h
  case commit hi hp _ =>
    by_cases hij : i = j
    · exact .inr ⟨hij, hi, hp, rfl⟩
    · exact .inl (s.session_setSession_ne _ hij)
  case fail =>
    rw [takeException_callerBufferFault]
    exact .inl rfl
  all_goals exact .inl rfl

/-- A commit moves `POS` on by the chunk, without wrapping, and keeps `INITIAL_PAGE`
(43_session_commands.md R192). -/
theorem State.Inv.commit_session {s : State} (h : s.Inv) {i : Nat} (hi : i < s.params.nsess)
    (hp : (s.engine i).phase = .czero) :
    ((commitStep i s).session i).initialPage = (s.session i).initialPage ∧
      ((commitStep i s).session i).pos.toNat = (s.session i).pos.toNat + (s.engine i).clen := by
  have hb := (h.slots i hi).busy (by rw [hp]; nofun)
  have hsess : (commitStep i s).session i = { s.session i with
      pos := (s.session i).pos + BitVec.ofNat 64 (s.engine i).clen } :=
    s.session_setSession_same _ (by rw [h.shape.sessions]; exact hi)
  rw [hsess]
  exact ⟨rfl, ((busyInv_iff.mp hb).commit_pos hp).2⟩

/-- A step of another agent than the read engines leaves alone every session it neither opens nor
closes. -/
theorem OtherStep.session_kept {s t : State} {e : Event} (h : OtherStep s e t) (hshape : ShapeInv s)
    {i : Nat} (hi : i < s.params.nsess) (he : ∀ j, e ≠ .engine j) : SessionKept s t i := by
  intro hs ht
  cases h
  case engine j _ => exact absurd rfl (he j)
  case command w k hd hx => exact (exec_command_next hd hx).session_kept hshape i hs ht
  case badCommand => rfl
  case regRead off hx => obtain ⟨r, -, rfl⟩ := regRead_next hx; rfl
  case regWrite off v hx =>
    obtain ⟨-, -, hsess, -⟩ := regWrite_frame hx
    exact State.session_congr hsess i
  case reset => rw [session_resetEvent hi] at ht; cases ht
  case setDstAdmit => rfl
  case hostStore a vs hx => obtain ⟨-, -, -, rfl⟩ := hostStore_next hx; rfl
  case hostStoreDst a vs hx => obtain ⟨-, rfl⟩ := hostStoreDst_next hx; rfl

/-- Settles O56. -/
theorem openSessionsOnlyMoveForward : Obligations.OpenSessionsOnlyMoveForward := by
  intro s t i h hi hstep hs ht
  have same (hk : t.session i = s.session i) :
      (t.session i).initialPage = (s.session i).initialPage ∧
        (s.session i).pos.toNat ≤ (t.session i).pos.toNat ∧
        ((t.session i).pos ≠ (s.session i).pos → s.nextEvent = .engine i) := by
    rw [hk]; exact ⟨rfl, Nat.le_refl _, fun hne => absurd rfl hne⟩
  obtain ⟨-, hp⟩ | ho := step_next hstep
  · exact same (hp.session i)
  · by_cases he : ∃ j, s.nextEvent = .engine j
    · obtain ⟨j, hj⟩ := he
      rw [hj] at ho
      cases ho with
      | engine j t hx =>
        obtain hk | ⟨rfl, hlt, hp, rfl⟩ := (engineStep_next hx).session (i := i)
        · exact same hk
        · obtain ⟨hip, hpos⟩ := h.consumed.commit_session hlt hp
          exact ⟨hip, hpos ▸ Nat.le_add_right _ _, fun _ => hj⟩
    · exact same (ho.session_kept h.consumed.shape hi (fun j hj => he ⟨j, hj⟩) hs ht)

/-! ### Registers that decide no step -/

/-- Changing the state a step answers. -/
def mapNext (f : State → State) :
    Host.Outcome State Fault Refusal → Host.Outcome State Fault Refusal
  | .next s => .next (f s)
  | .fault r => .fault r
  | .refused r => .refused r

/-- `s` with other values of `FMT`, `INTSTAT.DRDY` and `INTMSK.DRDY`, each from the one it has. -/
def State.mapFlags (s : State) (u v w : Bool → Bool) : State :=
  { s with fmt := u s.fmt, intstat := v s.intstat, intmsk := w s.intmsk }

section
variable (u v w : Bool → Bool) (i : Nat) (s : State)

theorem loopStep_mapFlags : loopStep i (s.mapFlags u v w) = (loopStep i s).mapFlags u v w := by
  simp only [loopStep, show ∀ j, (s.mapFlags u v w).engine j = s.engine j from fun _ => rfl]
  split_ifs <;> rfl

theorem creadStep_mapFlags :
    creadStep i (s.mapFlags u v w) = mapNext (·.mapFlags u v w) (creadStep i s) := by
  simp only [creadStep, show ∀ j, (s.mapFlags u v w).engine j = s.engine j from fun _ => rfl,
    show ∀ j k, (s.mapFlags u v w).chunkAddr j k = s.chunkAddr j k from fun _ _ => rfl,
    show ∀ a, (s.mapFlags u v w).inRing a = s.inRing a from fun _ => rfl]
  split
  · cases s.chunkAddr i (s.engine i).cidx with
    | none => rfl
    | some a => dsimp only; split <;> rfl
  · rfl

theorem cdeliverStep_mapFlags :
    cdeliverStep i (s.mapFlags u v w) = (cdeliverStep i s).mapFlags u v w := by
  simp only [cdeliverStep, show ∀ j, (s.mapFlags u v w).engine j = s.engine j from fun _ => rfl,
    show ∀ a n, (s.mapFlags u v w).admits a n = s.admits a n from fun _ _ => rfl,
    takeException_callerBufferFault]
  split_ifs <;> rfl

theorem czeroStep_mapFlags :
    czeroStep i (s.mapFlags u v w) = mapNext (·.mapFlags u v w) (czeroStep i s) := by
  simp only [czeroStep, show ∀ j, (s.mapFlags u v w).engine j = s.engine j from fun _ => rfl,
    show ∀ j k, (s.mapFlags u v w).chunkAddr j k = s.chunkAddr j k from fun _ _ => rfl,
    show ∀ a, (s.mapFlags u v w).inRing a = s.inRing a from fun _ => rfl]
  split
  · cases s.chunkAddr i (s.engine i).cidx with
    | none => rfl
    | some a => dsimp only; split <;> rfl
  · rfl

/-- No step of a read engine reads or writes `FMT`, `INTSTAT` or `INTMSK` (43_session_commands.md R188
to R195). -/
theorem engineStep_mapFlags :
    engineStep i (s.mapFlags u v w) = mapNext (·.mapFlags u v w) (engineStep i s) := by
  unfold engineStep
  by_cases hi : s.params.nsess ≤ i
  · rw [if_pos hi]; exact if_pos hi
  · rw [if_neg hi, if_neg (show ¬(s.mapFlags u v w).params.nsess ≤ i from hi),
      show (s.mapFlags u v w).engine i = s.engine i from rfl]
    cases (s.engine i).phase with
    | idle => rfl
    | loop => exact congrArg _ (loopStep_mapFlags u v w i s)
    | cread => exact creadStep_mapFlags u v w i s
    | cdeliver => exact congrArg _ (cdeliverStep_mapFlags u v w i s)
    | czero => exact czeroStep_mapFlags u v w i s
    | poll => rfl

end

/-- A step of a read engine is `engineStep`. -/
theorem step_engine {s : State} {i : Nat} (hev : s.nextEvent = .engine i) :
    step s = engineStep i s.consumed := by
  simp only [step, hev, takeTurn]

/-- With other flags a read engine makes the same step. -/
theorem step_engine_mapFlags {s t : State} {i : Nat} (u v w : Bool → Bool)
    (hev : s.nextEvent = .engine i) (h : step s = .next t) :
    step (s.mapFlags u v w) = .next (t.mapFlags u v w) := by
  rw [step_engine hev] at h
  rw [step_engine (show (s.mapFlags u v w).nextEvent = .engine i from hev)]
  exact (engineStep_mapFlags u v w i s.consumed).trans (by rw [h]; rfl)

/-- Settles O59. -/
theorem readEnginesIgnoreTheInterrupt : Obligations.ReadEnginesIgnoreTheInterrupt :=
  fun _ _ _ b c hev h => step_engine_mapFlags id (fun _ => b) (fun _ => c) hev h

/-- `s` with another value of `FMT`. -/
def State.withFmt (s : State) (b : Bool) : State := { s with fmt := b }

/-- No instruction reads or writes `FMT` (10_state.md R30; 40_risc_program.md R130). -/
theorem exec_withFmt (i : Instr) (s : State) (b : Bool) :
    exec i (s.withFmt b) = mapNext (·.withFmt b) (exec i s) := by
  cases i with
  | sync => rfl
  | write irq cc bc addr =>
    show execWrite .. = mapNext _ (execWrite ..)
    unfold execWrite; split <;> rfl
  | jump target =>
    show execJump .. = mapNext _ (execJump ..)
    unfold execJump; split <;> rfl
  | openSession sid =>
    show execOpenSession .. = mapNext _ (execOpenSession ..)
    unfold execOpenSession
    rw [show openCheck sid (s.withFmt b) = openCheck sid s from rfl]
    cases openCheck sid s <;> rfl
  | read nb sid len dst =>
    show execRead .. = mapNext _ (execRead ..)
    unfold execRead
    rw [show readCheck sid len dst (s.withFmt b) = readCheck sid len dst s from rfl]
    cases readCheck sid len dst s with
    | some r => rfl
    | none =>
      refine congrArg Host.Outcome.next ?_
      unfold acceptRead
      dsimp only
      rw [show (s.withFmt b).latched nb sid len dst = s.latched nb sid len dst from rfl]
      split <;> rfl
  | closeSession sid =>
    show execCloseSession .. = mapNext _ (execCloseSession ..)
    unfold execCloseSession
    rw [show slotCheck sid (s.withFmt b) = slotCheck sid s from rfl]
    cases slotCheck sid s <;> rfl
  | generate sid =>
    show execGenerate .. = mapNext _ (execGenerate ..)
    unfold execGenerate
    rw [show (s.withFmt b).producerEnabled = s.producerEnabled from rfl,
      show (s.withFmt b).progBase = s.progBase from rfl,
      show (s.withFmt b).params = s.params from rfl]
    split_ifs <;> rfl

theorem exec_withFmt_next {i : Instr} {s t : State} (b : Bool) (h : exec i s = .next t) :
    exec i (s.withFmt b) = .next (t.withFmt b) := by rw [exec_withFmt, h]; rfl

/-- With another `FMT` the producer makes the same step. -/
theorem step_producer_withFmt {s t : State} (b : Bool) (hev : s.nextEvent = .producer)
    (h : step s = .next t) : step (s.withFmt b) = .next (t.withFmt b) := by
  have hev' : (s.withFmt b).nextEvent = .producer := hev
  cases step_producer_next hev h with
  | disabled hd => exact step_producer_disabled hev' hd
  | complete he ha hl => exact step_producer_complete hev' he ha hl
  | transfer t he ha hl hx =>
    obtain ⟨hring, rfl⟩ := transferStep_next hx
    exact (step_producer_transfer hev' he ha hl).trans (transferStep_eq hring)
  | fetched i t he ha hr hf hx =>
    exact (step_producer_fetched hev' he ha hr hf).trans (exec_withFmt_next b hx)
  | error r he ha hr hf => exact step_producer_error hev' he ha hr hf

/-- A command word that decodes is executed (30_encoding.md R108). -/
theorem step_command_ok {s : State} {w : CmdWord} {i : Instr} (hev : s.nextEvent = .command w)
    (hd : decodeCommand w = .ok i) : step s = exec i s.consumed := by
  simp only [step, hev, takeTurn, commandTurn, hd]

/-- Every other command word is refused (30_encoding.md R105, checks 1 and 2). -/
theorem step_command_error {w : CmdWord} {e : Reject} (hd : decodeCommand w = .error e) :
    ∃ r, ∀ s : State, s.nextEvent = .command w →
      step s = .next (s.consumed.refuseCommand (sidField w) r) := by
  cases e
  case cmdReserved =>
    exact ⟨.badReserved, fun s hev => by simp only [step, hev, takeTurn, commandTurn, hd]⟩
  all_goals exact ⟨.badOpcode, fun s hev => by simp only [step, hev, takeTurn, commandTurn, hd]⟩

/-- With another `FMT` the command decoder makes the same step. -/
theorem step_command_withFmt {s t : State} {w : CmdWord} (b : Bool)
    (hev : s.nextEvent = .command w) (h : step s = .next t) :
    step (s.withFmt b) = .next (t.withFmt b) := by
  have hev' : (s.withFmt b).nextEvent = .command w := hev
  cases hd : decodeCommand w with
  | ok i =>
    rw [step_command_ok hev hd] at h
    exact (step_command_ok hev' hd).trans (exec_withFmt_next b h)
  | error e =>
    obtain ⟨r, hr⟩ := step_command_error hd
    obtain rfl := Host.Outcome.next.inj ((hr s hev).symm.trans h)
    exact hr _ hev'

/-- Settles O58. -/
theorem formatDecidesNoStep : Obligations.FormatDecidesNoStep := by
  rintro s t b (hev | ⟨i, hev⟩ | ⟨w, hev⟩) h
  · exact step_producer_withFmt b hev h
  · exact step_engine_mapFlags (fun _ => b) id id hev h
  · exact step_command_withFmt b hev h

/-! ### The register map and the interrupt wire -/

/-- The map holds eight registers and the page table, all at multiples of 4 (10_state.md R36). -/
theorem regAt_none {p : Params} {off : Nat}
    (h : off % 4 ≠ 0 ∨ (0x20 ≤ off ∧ off < 0x100) ∨ 0x100 + 4 * p.pageCount ≤ off) :
    regAt p off = none := by
  have fixed : ∀ k, k < 0x20 → k % 4 = 0 → off ≠ k := by omega
  unfold regAt
  rw [if_neg (fixed 0x00 (by omega) rfl), if_neg (fixed 0x04 (by omega) rfl),
    if_neg (fixed 0x08 (by omega) rfl), if_neg (fixed 0x0C (by omega) rfl),
    if_neg (fixed 0x10 (by omega) rfl), if_neg (fixed 0x14 (by omega) rfl),
    if_neg (fixed 0x18 (by omega) rfl), if_neg (fixed 0x1C (by omega) rfl)]
  exact if_neg (by omega)

/-- Settles O40. -/
theorem offsetsOffTheMapAreRefused : Obligations.OffsetsOffTheMapAreRefused := by
  intro s off v hoff hev
  have hnone : regAt s.consumed.params off = none := regAt_none hoff
  obtain hev | hev := hev
  · simp only [step, hev, takeTurn, regRead, hnone]
  · simp only [step, hev, takeTurn, regWrite, hnone]

/-- An `OPEN` of a closed slot opens it and unmasks the interrupt (43_session_commands.md R181). -/
theorem execOpenSession_opens {sid : Slot} {s : State} (hs : sid.toNat < s.params.nsess)
    (hv : (s.session sid.toNat).valid = false) :
    execOpenSession sid s =
      .next ({ (s.setSession sid.toNat { valid := true, pos := 0, initialPage := s.openPage }) with
        intmsk := true }.respond .done sid s.openPage) := by
  have hc : openCheck sid s = none := by
    unfold openCheck; rw [if_neg (by omega), if_neg (by simp [hv])]
  simp only [execOpenSession, hc]

/-- Settles O41. -/
theorem openUnmasksAStaleRequest : Obligations.OpenUnmasksAStaleRequest := by
  intro s sid hs hv
  refine ⟨by simp [State.irqOut], _, execOpenSession_opens hs hv, ?_⟩
  simp [State.irqOut]

/-! ### Reset values -/

/-- Every slot is closed and idle after reset, whatever its index (10_state.md R42). -/
theorem resetWith_slots (p : Params) (i : Nat) :
    ((State.resetWith p).session i).valid = false ∧
      ((State.resetWith p).engine i).phase = .idle := by
  have hsess : (State.resetWith p).session i = Session.closed := by
    simp [State.session, State.resetWith, List.getD, List.getElem?_replicate]
    split <;> rfl
  have heng : (State.resetWith p).engine i = ReadEngine.idle p.pageSize := by
    simp [State.engine, State.resetWith, List.getD, List.getElem?_replicate]
    split <;> rfl
  rw [hsess, heng]
  exact ⟨rfl, rfl⟩

/-- Settles O42. -/
theorem resetValuesOfTheSpec : Obligations.ResetValuesOfTheSpec :=
  ⟨rfl, rfl, rfl, rfl, rfl, rfl, rfl, rfl, rfl, resetWith_slots Params.setT⟩

end Sys2Proof.Machine
end

section
/-! SUPPORT. The address registers of a live block (20_memory.md R64 (d); 70_reset_and_hazards.md
R282). -/

namespace Sys2Proof.Machine

open Sys2Proof

/-- The step from `s` to `t` leaves `PROG_BASE` and the page table alone (10_state.md R31, R32). -/
def MapKept (s t : State) : Prop := t.progBaseHi = s.progBaseHi ∧ t.pageAddr = s.pageAddr

theorem MapKept.progBase {s t : State} (h : MapKept s t) : t.progBase = s.progBase :=
  congrArg (· ++ 0#2) h.1

theorem MapKept.page {s t : State} (h : MapKept s t) (i : Nat) : t.page i = s.page i :=
  congrArg (·.getD i 0) h.2

/-- The producer writes no address register, live or not. -/
theorem ProducerStep.mapKept {s t : State} (h : ProducerStep s t) : MapKept s t :=
  ⟨(congrArg State.progBaseHi h.frame).trans rfl, (congrArg State.pageAddr h.frame).trans rfl⟩

/-- In a live block no step but reset changes an address register. The producer and the start action
write none; of the other agents only the host's register write could, and it is refused (log 12). -/
theorem step_mapKept_of_live {s t : State} (hlive : s.live = true) (hne : s.nextEvent ≠ .reset)
    (h : step s = .next t) : MapKept s t := by
  by_cases hev : s.nextEvent = .producer
  · have hkept : MapKept s.consumed t := (step_producer_next hev h).mapKept
    exact hkept
  · obtain ⟨-, -, -, -, -, rfl⟩ | hk := step_other_kept hev hne h
    · exact ⟨rfl, rfl⟩
    · exact hk.map_of_live hlive

/-- Settles O38: the only writes of an address register that a live block admits repeat the value it
holds. -/
theorem addressRegistersAreFrozenWhileLive : Obligations.AddressRegistersAreFrozenWhileLive := by
  intro s t hlive hne hstep
  have hkept := step_mapKept_of_live hlive hne hstep
  exact ⟨hkept.progBase, hkept.page⟩

end Sys2Proof.Machine
end

section
/-! SUPPORT. Words as numbers and the two decoders forwards: what each field of a command word and of
a RISC word is, and what a word decodes to (30_encoding.md R91 to R101, R105, R106). -/

namespace Sys2Proof

open Sys2Proof.Machine

/-! ### Words as numbers -/

/-- Bits put above others count by their place. -/
theorem toNat_append_add {n m : Nat} (x : BitVec n) (y : BitVec m) :
    (x ++ y).toNat = x.toNat * 2 ^ m + y.toNat := by
  rw [BitVec.toNat_append, ← Nat.shiftLeft_add_eq_or_of_lt y.isLt, Nat.shiftLeft_eq]

/-- A command word as a number (30_encoding.md R100). -/
theorem commandWord_toNat (opc : BitVec 8) (nb : Bool) (sid : Slot) (len : Word) (dst : Long) :
    (commandWord opc nb sid len dst).toNat =
      opc.toNat * 2 ^ 120 + nb.toNat * 2 ^ 119 + sid.toNat * 2 ^ 96 + len.toNat * 2 ^ 64 +
        dst.toNat := by
  simp only [commandWord, toNat_append_add, BitVec.toNat_ofBool, BitVec.toNat_ofNat]
  omega

/-- A response word as a number (30_encoding.md R106). -/
theorem responseWord_toNat (st : Status) (sid : Slot) (count : Word) :
    (responseWord st sid count).toNat =
      (statusBits st).toNat * 2 ^ 62 + sid.toNat * 2 ^ 32 + count.toNat := by
  simp only [responseWord, toNat_append_add, BitVec.toNat_ofNat]
  omega

/-- Settles O22: the number of the word, with the two status bits read off. -/
theorem responseWordLayout : Obligations.ResponseWordLayout := by
  intro sid count st
  rw [responseWord_toNat]
  cases st <;> rfl

/-! ### Fields of a command word -/

theorem opcField_toNat (w : CmdWord) : (opcField w).toNat = w.toNat / 2 ^ 120 := by
  have := w.isLt
  simp only [opcField, BitVec.extractLsb'_toNat, Nat.shiftRight_eq_div_pow]
  omega

theorem nbField_eq (w : CmdWord) : nbField w = decide (w.toNat / 2 ^ 119 % 2 = 1) := by
  simp only [nbField, BitVec.getLsbD, Nat.testBit_eq_decide_div_mod_eq]

theorem rsvField_toNat (w : CmdWord) : (rsvField w).toNat = w.toNat / 2 ^ 112 % 2 ^ 7 := by
  simp only [rsvField, BitVec.extractLsb'_toNat, Nat.shiftRight_eq_div_pow]

theorem sidField_toNat (w : CmdWord) : (sidField w).toNat = w.toNat / 2 ^ 96 % 2 ^ 16 := by
  simp only [sidField, BitVec.extractLsb'_toNat, Nat.shiftRight_eq_div_pow]

theorem lenField_toNat (w : CmdWord) : (lenField w).toNat = w.toNat / 2 ^ 64 % 2 ^ 32 := by
  simp only [lenField, BitVec.extractLsb'_toNat, Nat.shiftRight_eq_div_pow]

theorem dstField_toNat (w : CmdWord) : (dstField w).toNat = w.toNat % 2 ^ 64 := by
  simp only [dstField, BitVec.extractLsb'_toNat, Nat.shiftRight_eq_div_pow, pow_zero, Nat.div_one]

/-! ### The fields the encoder writes -/

section

variable (opc : BitVec 8) (nb : Bool) (sid : Slot) (len : Word) (dst : Long)

@[simp] theorem opcField_commandWord : opcField (commandWord opc nb sid len dst) = opc := by
  have hnb := nb.toNat_lt
  apply BitVec.eq_of_toNat_eq
  rw [opcField_toNat, commandWord_toNat]
  omega

@[simp] theorem nbField_commandWord : nbField (commandWord opc nb sid len dst) = nb := by
  rw [nbField_eq, commandWord_toNat]
  cases nb <;> simp <;> omega

@[simp] theorem rsvField_commandWord : rsvField (commandWord opc nb sid len dst) = 0#7 := by
  apply BitVec.eq_of_toNat_eq
  rw [rsvField_toNat, commandWord_toNat, BitVec.toNat_ofNat]
  omega

@[simp] theorem sidField_commandWord : sidField (commandWord opc nb sid len dst) = sid := by
  apply BitVec.eq_of_toNat_eq
  rw [sidField_toNat, commandWord_toNat]
  omega

@[simp] theorem lenField_commandWord : lenField (commandWord opc nb sid len dst) = len := by
  apply BitVec.eq_of_toNat_eq
  rw [lenField_toNat, commandWord_toNat]
  omega

@[simp] theorem dstField_commandWord : dstField (commandWord opc nb sid len dst) = dst := by
  apply BitVec.eq_of_toNat_eq
  rw [dstField_toNat, commandWord_toNat]
  omega

end

/-! ### The command decoder, forwards -/

/-- `OPC` names no command exactly outside `1 .. 4` (30_encoding.md R101). -/
theorem commandOf_eq_none_iff (w : CmdWord) :
    commandOf w = none ↔ w.toNat / 2 ^ 120 = 0 ∨ 4 < w.toNat / 2 ^ 120 := by
  rw [← opcField_toNat]
  unfold commandOf
  simp only [← BitVec.toNat_inj, BitVec.toNat_ofNat]
  split_ifs <;> simp <;> omega

/-- Check 1 of 30_encoding.md R105. -/
theorem decodeCommand_badOpcode {w : CmdWord} (h : commandOf w = none) :
    decodeCommand w = .error .cmdOpcode := by
  simp only [decodeCommand, h]

/-- Check 2 of 30_encoding.md R105. -/
theorem decodeCommand_badReserved {w : CmdWord} (h : commandOf w ≠ none) (hr : rsvField w ≠ 0#7) :
    decodeCommand w = .error .cmdReserved := by
  obtain ⟨i, hi⟩ := Option.ne_none_iff_exists'.mp h
  simp only [decodeCommand, hi, if_neg hr]

/-- A word the encoder writes passes check 2 (30_encoding.md R100, R105). -/
theorem decodeCommand_commandWord {opc : BitVec 8} {nb : Bool} {sid : Slot} {len : Word} {dst : Long}
    {i : Instr} (h : commandOf (commandWord opc nb sid len dst) = some i) :
    decodeCommand (commandWord opc nb sid len dst) = .ok i := by
  simp only [decodeCommand, h, rsvField_commandWord, if_true]

/-! ### The RISC decoder, forwards -/

/-- Words whose bytes are one whole instruction decode to it. -/
theorem decode_risc_of_bytes {ws : List Word} {i : Instr}
    (h : decodeBytes (ws.flatMap bytesOfWord) = .ok (i, [])) : decode (.risc ws) = .ok i := by
  simp only [decode, h]
  rfl

/-- Settles O1, by the kind of instruction: the RISC words by their decoding lemmas, the command words
by the fields the encoder writes. -/
theorem decodeOfEncodeIsIdentity : Obligations.DecodeOfEncodeIsIdentity := by
  intro i hwf
  cases i with
  | sync => exact decode_risc_of_bytes (decodeBytes_sync [])
  | write irq cc bc addr =>
    have hcc : cc ≠ 0b10#2 := by simpa [Instr.wf] using hwf
    exact decode_risc_of_bytes (decodeBytes_write irq cc bc addr [] hcc)
  | jump target =>
    have hal : target.toNat % 4 = 0 := by simpa [Instr.wf] using hwf
    exact decode_risc_of_bytes (decodeBytes_jump target [] hal)
  | openSession sid => exact decodeCommand_commandWord (by simp [commandOf])
  | read nb sid len dst => exact decodeCommand_commandWord (by simp [commandOf])
  | closeSession sid => exact decodeCommand_commandWord (by simp [commandOf])
  | generate sid => exact decodeCommand_commandWord (by simp [commandOf])

/-- The bytes after word 0 that begin with a word give the operand word of a `WRITE` or `JUMP`
(30_encoding.md R96). -/
theorem decodeTwoWord_bytes (op : BitVec 4) (w0 w1 : Word) (rest : List Byte) :
    decodeTwoWord op w0 (bytesOfWord w1 ++ rest) =
      (if op = 0x1#4 then decodeWrite w0 w1 else decodeJump w1).map fun i => (i, rest) := by
  simp only [bytesOfWord, List.cons_append, List.nil_append, decodeTwoWord, wordOfBytes_extract]

/-- Forgetting the bytes that follow an instruction leaves its decoding. -/
theorem except_map_fst_pair {ε α β : Type} (x : Except ε α) (b : β) :
    (x.map fun a => (a, b)).map Prod.fst = x := by cases x <;> rfl

/-- Two RISC words decode by `OPCODE`: the second is an operand or follows the instruction
(30_encoding.md R91, R97, R98). -/
theorem decode_risc_pair (w0 w1 : Word) :
    decode (.risc [w0, w1]) =
      if opcodeField w0 = 0x8#4 then .ok .sync
      else if opcodeField w0 = 0x1#4 then decodeWrite w0 w1
      else if opcodeField w0 = 0x7#4 then decodeJump w1
      else .error .riscOpcode := by
  have hbytes : decode (.risc [w0, w1]) = (decodeFrom w0 (bytesOfWord w1 ++ [])).map Prod.fst := by
    conv_rhs => rw [← wordOfBytes_extract w0]
    rfl
  rw [hbytes]
  unfold decodeFrom
  by_cases h8 : opcodeField w0 = 0x8#4
  · rw [if_pos h8, if_pos h8]; rfl
  · rw [if_neg h8, if_neg h8]
    by_cases h1 : opcodeField w0 = 0x1#4
    · rw [if_pos (.inl h1), if_pos h1, decodeTwoWord_bytes, if_pos h1, except_map_fst_pair]
    · rw [if_neg h1]
      by_cases h7 : opcodeField w0 = 0x7#4
      · rw [if_pos (.inr h7), if_pos h7, decodeTwoWord_bytes, if_neg h1, except_map_fst_pair]
      · rw [if_neg (by simp [h1, h7]), if_neg h7]; rfl

theorem opcodeField_eq_iff (w : Word) (op : BitVec 4) :
    opcodeField w = op ↔ w.toNat / 2 ^ 28 = op.toNat := by
  rw [← opcodeField_toNat, BitVec.toNat_inj]

theorem ccField_eq (w : Word) : ccField w = BitVec.ofNat 2 (w.toNat / 2 ^ 16) :=
  BitVec.eq_of_toNat_eq (by rw [ccField_toNat, BitVec.toNat_ofNat])

theorem bcField_eq (w : Word) : bcField w = BitVec.ofNat 12 w.toNat :=
  BitVec.eq_of_toNat_eq (by rw [bcField_toNat, BitVec.toNat_ofNat])

theorem decodeWrite_toOption (w0 w1 : Word) :
    (decodeWrite w0 w1).toOption =
      if w0.toNat / 2 ^ 16 % 4 = 2 then none
      else some (.write (decide (w0.toNat / 2 ^ 24 % 2 = 1)) (BitVec.ofNat 2 (w0.toNat / 2 ^ 16))
        (BitVec.ofNat 12 w0.toNat) w1) := by
  have hcc : ccField w0 = 0b10#2 ↔ w0.toNat / 2 ^ 16 % 4 = 2 := by
    rw [← ccField_toNat, ← BitVec.toNat_inj, BitVec.toNat_ofNat]
  unfold decodeWrite
  rw [← irqField_eq, ← ccField_eq, ← bcField_eq]
  simp only [hcc]
  split <;> rfl

theorem decodeJump_toOption (w1 : Word) :
    (decodeJump w1).toOption = if w1.toNat % 4 = 0 then some (.jump w1) else none := by
  unfold decodeJump
  split <;> rfl

/-- Settles O3: the three opcodes in turn, each with its operands read by arithmetic. -/
theorem riscWordsDecodeByTheirFields : Obligations.RiscWordsDecodeByTheirFields := by
  intro w0 w1
  rw [decode_risc_pair, ← decodeWrite_toOption, ← decodeJump_toOption]
  simp only [opcodeField_eq_iff, BitVec.toNat_ofNat, Nat.reducePow, Nat.reduceMod]
  split_ifs <;> rfl

end Sys2Proof
end

section
/-! SUPPORT. The command decoder's answers: which command is refused with which reason, and who sends
a response (30_encoding.md R105, R106, R108). -/

namespace Sys2Proof.Machine

open Sys2Proof

/-! ### Received words -/

/-- Settles O5: the word is executed after its event is taken off the schedule. -/
theorem stepRunsTheReceivedCommand : Obligations.StepRunsTheReceivedCommand :=
  fun _ _ _ hev hd => step_command_ok hev hd

/-- A word that fails check 1 is answered with reason 1 (30_encoding.md R105). -/
theorem step_command_badOpcode {s : State} {w : CmdWord} (hev : s.nextEvent = .command w)
    (h : commandOf w = none) :
    step s = .next (s.consumed.refuseCommand (sidField w) .badOpcode) := by
  simp only [step, hev, takeTurn, commandTurn, decodeCommand_badOpcode h]

/-- A word that passes check 1 and fails check 2 is answered with reason 2 (30_encoding.md R105). -/
theorem step_command_badReserved {s : State} {w : CmdWord} (hev : s.nextEvent = .command w)
    (h : commandOf w ≠ none) (hr : rsvField w ≠ 0#7) :
    step s = .next (s.consumed.refuseCommand (sidField w) .badReserved) := by
  simp only [step, hev, takeTurn, commandTurn, decodeCommand_badReserved h hr]

/-- Settles O6: the two refusals, with `OPC` and `RSV` read off the number of the word. -/
theorem malformedCommandsAreRefused : Obligations.MalformedCommandsAreRefused := by
  intro s w hev
  constructor
  · intro hopc
    exact step_command_badOpcode hev ((commandOf_eq_none_iff w).mpr hopc)
  · rintro ⟨hlo, hhi, hrsv⟩
    have hcmd : commandOf w ≠ none := by
      rw [Ne, commandOf_eq_none_iff]
      omega
    have hr : rsvField w ≠ 0#7 := fun h0 => hrsv (by rw [← rsvField_toNat, h0]; rfl)
    exact step_command_badReserved hev hcmd hr

/-! ### The checks, forwards -/

section

variable {s : State} {sid : Slot} {nb : Bool} {len : Word} {dst : Long} {r : RefuseReason}

/-- Check 3 of `OPEN`: there is no such slot. -/
theorem openCheck_badSid (h : s.params.nsess ≤ sid.toNat) : openCheck sid s = some .badSid := by
  rw [openCheck, if_pos h]

/-- Check 5: the slot is open already. -/
theorem openCheck_alreadyOpen (hs : sid.toNat < s.params.nsess)
    (hv : (s.session sid.toNat).valid = true) : openCheck sid s = some .alreadyOpen := by
  rw [openCheck, if_neg (Nat.not_le.mpr hs), if_pos hv]

/-- Check 3 of `CLOSE` and `READ`: there is no such slot. -/
theorem slotCheck_badSid (h : s.params.nsess ≤ sid.toNat) : slotCheck sid s = some .badSid := by
  rw [slotCheck, if_pos h]

/-- Check 4: the slot is not open. -/
theorem slotCheck_notOpen (hs : sid.toNat < s.params.nsess)
    (hv : (s.session sid.toNat).valid = false) : slotCheck sid s = some .notOpen := by
  rw [slotCheck, if_neg (Nat.not_le.mpr hs), if_pos hv]

/-- An open slot passes checks 3 and 4, and its engine decides check 6. -/
theorem slotCheck_of_open (hs : sid.toNat < s.params.nsess)
    (hv : (s.session sid.toNat).valid = true) :
    slotCheck sid s = if (s.engine sid.toNat).phase ≠ .idle then some .busy else none := by
  rw [slotCheck, if_neg (Nat.not_le.mpr hs), if_neg (by simp [hv])]

/-- `READ` fails where the checks it shares with `CLOSE` do. -/
theorem readCheck_of_slotCheck (h : slotCheck sid s = some r) : readCheck sid len dst s = some r := by
  simp only [readCheck, h]

/-- Check 7: the position would leave its range. -/
theorem readCheck_posOverflow (h : slotCheck sid s = none)
    (hp : 2 ^ 64 ≤ (s.session sid.toNat).pos.toNat + len.toNat) :
    readCheck sid len dst s = some .posOverflow := by
  simp only [readCheck, h, if_pos hp]

/-- Check 8: the caller's range would leave DST. -/
theorem readCheck_dstOverflow (h : slotCheck sid s = none)
    (hp : (s.session sid.toNat).pos.toNat + len.toNat < 2 ^ 64)
    (hd : 2 ^ 64 < dst.toNat + len.toNat) : readCheck sid len dst s = some .dstOverflow := by
  simp only [readCheck, h, if_neg (Nat.not_le.mpr hp), if_pos hd]

/-! ### A failed check is the answer -/

theorem exec_openSession_refused (h : openCheck sid s = some r) :
    exec (.openSession sid) s = .next (s.refuseCommand sid r) := by
  simp only [exec, execOpenSession, h]

theorem exec_closeSession_refused (h : slotCheck sid s = some r) :
    exec (.closeSession sid) s = .next (s.refuseCommand sid r) := by
  simp only [exec, execCloseSession, h]

theorem exec_read_refused (h : readCheck sid len dst s = some r) :
    exec (.read nb sid len dst) s = .next (s.refuseCommand sid r) := by
  simp only [exec, execRead, h]

/-- `CLOSE` and every `READ` of a slot that fails their shared checks are refused alike. -/
theorem exec_close_read_refused (h : slotCheck sid s = some r) :
    exec (.closeSession sid) s = .next (s.refuseCommand sid r) ∧
      ∀ nb len dst, exec (.read nb sid len dst) s = .next (s.refuseCommand sid r) :=
  ⟨exec_closeSession_refused h, fun _ _ _ => exec_read_refused (readCheck_of_slotCheck h)⟩

end

/-- Settles O21, check by check. -/
theorem refusalsFollowTheCheckOrder : Obligations.RefusalsFollowTheCheckOrder := by
  intro s sid
  refine ⟨fun hbad => ?_, fun hs hv => ?_, fun hs hv => ⟨?_, fun hbusy => ?_, fun hidle => ?_⟩⟩
  · exact ⟨exec_openSession_refused (openCheck_badSid hbad),
      exec_close_read_refused (slotCheck_badSid hbad)⟩
  · exact exec_close_read_refused (slotCheck_notOpen hs hv)
  · exact exec_openSession_refused (openCheck_alreadyOpen hs hv)
  · exact exec_close_read_refused ((slotCheck_of_open hs hv).trans (if_pos hbusy))
  · intro nb len dst
    have hslot : slotCheck sid s = none :=
      (slotCheck_of_open hs hv).trans (if_neg (not_not_intro hidle))
    split
    next hpos => exact exec_read_refused (readCheck_posOverflow hslot hpos)
    next hpos =>
      intro hdst
      exact exec_read_refused (readCheck_dstOverflow hslot (Nat.lt_of_not_le hpos) hdst)

/-! ### Responses -/

/-- From `s` to `t` the responses sent stay, and at most one is added (30_encoding.md R106). -/
def RespondsAtMostOnce (s t : State) : Prop :=
  t.responses = s.responses ∨ ∃ st sid count, t.responses = responseWord st sid count :: s.responses

theorem RespondsAtMostOnce.of_respond {s t : State} {st : Status} {sid : Slot} {count : Word}
    (h : t.responses = responseWord st sid count :: s.responses) : RespondsAtMostOnce s t :=
  .inr ⟨st, sid, count, h⟩

/-- A read engine answers where it finishes or fails, and nowhere else (43_session_commands.md R188,
R195). -/
theorem EngineStep.respondsAtMostOnce {s t : State} {i : Nat} (h : EngineStep s i t) :
    RespondsAtMostOnce s t := by
  cases h
  case finish => exact .of_respond rfl
  case fail =>
    rw [takeException_callerBufferFault]
    exact .of_respond rfl
  all_goals exact .inl rfl

/-- An accepted `READ` is answered at once only where it is caught up and non-blocking
(43_session_commands.md R186). -/
theorem acceptRead_respondsAtMostOnce (nb : Bool) (sid : Slot) (len : Word) (dst : Long) (s : State) :
    RespondsAtMostOnce s (acceptRead nb sid len dst s) := by
  unfold acceptRead
  dsimp only
  split
  · exact .of_respond rfl
  · exact .inl rfl

/-- The command decoder answers every command but an accepted `READ` in the step that receives it
(30_encoding.md R108). -/
theorem CommandStep.respondsAtMostOnce {s t : State} (h : CommandStep s t) :
    RespondsAtMostOnce s t := by
  cases h
  case accepted nb sid len dst _ => exact acceptRead_respondsAtMostOnce nb sid len dst s
  all_goals exact .of_respond rfl

theorem ProducerStep.responses {s t : State} (h : ProducerStep s t) : t.responses = s.responses :=
  (congrArg State.responses h.frame).trans rfl

theorem regWrite_responses {off : Nat} {v : Word} {s t : State} (h : regWrite off v s = .next t) :
    t.responses = s.responses := by
  obtain rfl | ⟨-, -, rfl⟩ | rfl | ⟨_, rfl⟩ | ⟨_, rfl⟩ | ⟨_, rfl⟩ | ⟨-, _, rfl⟩ | ⟨-, _, rfl⟩ |
    ⟨_, -, rfl⟩ := regWrite_next h
  all_goals rfl

/-- Beside the producer, only the command decoder and the read engines answer. -/
theorem OtherStep.responses {s t : State} {e : Event} (h : OtherStep s e t) :
    t.responses = s.responses ∨
      RespondsAtMostOnce s t ∧ ((∃ w, e = .command w) ∨ ∃ i, e = .engine i) := by
  cases h
  case engine i hx => exact .inr ⟨(engineStep_next hx).respondsAtMostOnce, .inr ⟨i, rfl⟩⟩
  case command w i hd hx =>
    exact .inr ⟨(exec_command_next hd hx).respondsAtMostOnce, .inl ⟨w, rfl⟩⟩
  case badCommand w r _ =>
    exact .inr ⟨(CommandStep.refused (sidField w) r).respondsAtMostOnce, .inl ⟨w, rfl⟩⟩
  case regRead off hx => obtain ⟨_, -, rfl⟩ := regRead_next hx; exact .inl rfl
  case regWrite off v hx => exact .inl (regWrite_responses hx)
  case reset => exact .inl rfl
  case setDstAdmit => exact .inl rfl
  case hostStore a vs hx => obtain ⟨-, -, -, rfl⟩ := hostStore_next hx; exact .inl rfl
  case hostStoreDst a vs hx => obtain ⟨-, rfl⟩ := hostStoreDst_next hx; exact .inl rfl

/-- Settles O57, agent by agent; taking the event off the schedule sends nothing. -/
theorem atMostOneResponsePerStep : Obligations.AtMostOneResponsePerStep := by
  intro s t hstep
  obtain ⟨-, hp⟩ | ho := step_next hstep
  · exact .inl hp.responses
  · obtain hsame | ⟨hsame | hone, hwho⟩ := ho.responses
    · exact .inl hsame
    · exact .inl hsame
    · exact .inr ⟨hone, hwho⟩

end Sys2Proof.Machine
end

section
/-! SUPPORT. The producer's instructions and the `WRITE` it has in flight, for every program: what a
fetch finds, what each instruction leaves, and a transfer run to its completion
(40_risc_program.md R120 to R127). -/

namespace Sys2Proof

/-! ### Decoding a longer window -/

theorem decodeTwoWord_append {op : BitVec 4} {w0 : Word} {bs rest : List Byte} {i : Instr}
    (h : decodeTwoWord op w0 bs = .ok (i, rest)) (more : List Byte) :
    decodeTwoWord op w0 (bs ++ more) = .ok (i, rest ++ more) := by
  unfold decodeTwoWord at h
  split at h
  next b4 b5 b6 b7 tail =>
    simp only [List.cons_append, decodeTwoWord]
    generalize (if op = 0x1#4 then decodeWrite w0 (wordOfBytes b4 b5 b6 b7)
      else decodeJump (wordOfBytes b4 b5 b6 b7)) = x at h ⊢
    cases x with
    | error e => cases h
    | ok j => cases h; rfl
  next => cases h

/-- Bytes after an instruction do not change what it decodes to: its length follows from its own
first word (30_encoding.md R97). -/
theorem decodeBytes_append {bs rest : List Byte} {i : Instr} (h : decodeBytes bs = .ok (i, rest))
    (more : List Byte) : decodeBytes (bs ++ more) = .ok (i, rest ++ more) := by
  unfold decodeBytes at h
  split at h
  next b0 b1 b2 b3 tail =>
    simp only [List.cons_append, decodeBytes]
    unfold decodeFrom at h ⊢
    split at h
    next hs => rw [if_pos hs]; cases h; rfl
    next hs =>
      rw [if_neg hs]
      split at h
      next htwo => rw [if_pos htwo]; exact decodeTwoWord_append h more
      next => cases h
  next => cases h

namespace Machine

/-! ### The fetch -/

/-- Where only four bytes at `RPC` can be fetched, the fetch decodes those
(40_risc_program.md R121). -/
theorem State.fetch_four {s : State} (hal : s.rpc.toNat % 4 = 0)
    (h4 : s.inProgram s.rpc.toNat 4 = true) (h8 : s.inProgram s.rpc.toNat 8 = false) :
    s.fetch = (decodeBytes (s.physBytes s.rpc.toNat 4)).map Prod.fst := by
  simp [State.fetch, State.fetchWindow, hal, h4, h8]

/-- The fetch finds the instruction its window begins with, be it seen in four bytes or in eight. -/
theorem State.fetch_of_decodeBytes {s : State} {i : Instr} {rest : List Byte} {n : Nat}
    (hal : s.rpc.toNat % 4 = 0) (hn : n = 4 ∨ n = 8) (hin : s.inProgram s.rpc.toNat n = true)
    (hd : decodeBytes (s.physBytes s.rpc.toNat n) = .ok (i, rest)) : s.fetch = .ok i := by
  obtain rfl | rfl := hn
  · by_cases h8 : s.inProgram s.rpc.toNat 8 = true
    · rw [State.fetch_eight hal h8, s.physBytes_add _ 4 4, decodeBytes_append hd]; rfl
    · rw [State.fetch_four hal hin (by simpa using h8), hd]; rfl
  · rw [State.fetch_eight hal hin, hd]; rfl

/-- Settles O4: whichever of the two windows the bytes fill, the fetch finds `i`. -/
theorem stepRunsTheFetchedInstruction : Obligations.StepRunsTheFetchedInstruction := by
  intro s i rest n hev he ha hr hal hn hin hd
  exact step_producer_fetched hev he ha hr (State.fetch_of_decodeBytes hal hn hin hd)

/-! ### The RISC instructions -/

theorem exec_sync (s : State) : exec .sync s = .next { s with rpc := s.rpc + 4 } := rfl

/-- A `WRITE` with the reserved counter control raises `RiscError` (40_risc_program.md R124). -/
theorem exec_write_reserved (irq : Bool) (bc : BitVec 12) (addr : Word) (s : State) :
    exec (.write irq 0b10#2 bc addr) s = .next { s with riscErr := true } := rfl

theorem exec_write_legal {cc : BitVec 2} (hcc : cc ≠ 0b10#2) (irq : Bool) (bc : BitVec 12)
    (addr : Word) (s : State) :
    exec (.write irq cc bc addr) s = .next { s with
      pw := { active := true, addr := addr.setWidth 33, left := bc, cc := cc, irq := irq }
      rpc := s.rpc + 8 } := if_neg hcc

/-- A misaligned target raises `RiscError` (40_risc_program.md R127). -/
theorem exec_jump_misaligned {target : Word} (h : target.toNat % 4 ≠ 0) (s : State) :
    exec (.jump target) s = .next { s with riscErr := true } := if_pos h

theorem exec_jump_aligned {target : Word} (h : target.toNat % 4 = 0) (s : State) :
    exec (.jump target) s = .next { s with rpc := target.setWidth 33 } := if_neg (not_not_intro h)

/-- A step that writes neither memory keeps every byte. -/
theorem sameMemory_of_eq {s t : State} (hp : t.phys = s.phys) (hd : t.dst = s.dst) :
    sameMemory s t :=
  fun a => ⟨State.physByte_congr hp a, congrArg (Memory.read · a) hd⟩

/-- Settles O9: the carry bit of `RPC` takes up the advance at the end of PHYS. -/
theorem syncAdvancesRpcOnly : Obligations.SyncAdvancesRpcOnly := by
  intro s
  exact ⟨exec_sync s, fun hle => ptr_add_toNat (k := 4) (by omega)⟩

/-- Settles O10, by the legality of the counter control. -/
theorem writeIssuesItsTransfer : Obligations.WriteIssuesItsTransfer := by
  intro irq cc bc addr s
  split
  next hcc => subst hcc; exact exec_write_reserved irq bc addr s
  next hcc =>
    exact ⟨_, exec_write_legal hcc irq bc addr s, rfl, setWidth_ptr_toNat addr, rfl, rfl, rfl,
      fun hle => ptr_add_toNat (k := 8) (by omega), rfl, sameMemory_of_eq rfl rfl⟩

/-- Settles O11, by the alignment of the target. -/
theorem jumpLoadsRpcOnly : Obligations.JumpLoadsRpcOnly := by
  intro target s
  split
  next hmis => exact exec_jump_misaligned hmis s
  next hal =>
    exact ⟨_, exec_jump_aligned (not_not.mp hal) s, setWidth_ptr_toNat target, rfl,
      sameMemory_of_eq rfl rfl⟩

/-! ### One step of a `WRITE` in flight -/

theorem transferStep_outside {s : State} (h : s.inRing s.pw.addr.toNat ≠ true) :
    transferStep s = .refused .outsidePhys := if_neg h

theorem State.physByte_transferred (s : State) (a : Nat) :
    s.transferred.physByte a =
      if a = s.pw.addr.toNat then s.sampleAt s.srcIdx else s.physByte a :=
  s.physByte_physWrite s.pw.addr.toNat a s.nextSample

/-- The carry bit of `PW.ADDR` takes up the advance at the end of PHYS (log 11). -/
theorem State.transferred_addr_toNat {s : State} (h : s.inRing s.pw.addr.toNat = true) :
    s.transferred.pw.addr.toNat = s.pw.addr.toNat + 1 := by
  have hlt := State.inRing_lt h
  exact ptr_add_toNat (k := 1) (by omega)

theorem State.transferred_left_toNat {s : State} (h : s.pw.left ≠ 0) :
    s.transferred.pw.left.toNat = s.pw.left.toNat - 1 := by
  show (s.pw.left - 1).toNat = s.pw.left.toNat - 1
  bv_omega

/-- Settles O12, by where `PW.ADDR` points. -/
theorem transferMovesOneSampleByte : Obligations.TransferMovesOneSampleByte := by
  intro s hev he ha hl
  have hstep := step_producer_transfer hev he ha hl
  split
  next hring =>
    exact ⟨s.consumed.transferred, hstep.trans (transferStep_eq hring),
      s.consumed.physByte_transferred, State.transferred_addr_toNat (s := s.consumed) hring,
      State.transferred_left_toNat (s := s.consumed) hl, rfl⟩
  next hout => exact hstep.trans (transferStep_outside hout)

/-- The counter controls in plain numbers (30_encoding.md R93). -/
theorem counterAfter_toNat (cc : BitVec 2) (g : Word) :
    (counterAfter cc g).toNat =
      if cc = 0b01#2 then (g.toNat + 1) % 2 ^ 32 else if cc = 0b11#2 then 0 else g.toNat := by
  unfold counterAfter
  split
  · exact BitVec.toNat_add g 1
  · split <;> rfl

theorem drdyAfter_eq (irq intstat : Bool) :
    drdyAfter irq intstat = if irq then true else intstat := by
  cases irq <;> rfl

/-- Settles O13. -/
theorem completionCountsAndRequests : Obligations.CompletionCountsAndRequests := by
  intro s hev he ha hl _
  exact ⟨completionStep s.consumed, step_producer_complete hev he ha hl, counterAfter_toNat _ _,
    drdyAfter_eq _ _, rfl, sameMemory_of_eq rfl rfl⟩

/-! ### A `WRITE` in flight to its end -/

/-- A listed event is the next one (log 1). -/
theorem State.nextEvent_of_schedule {s : State} {e : Event} {es : List Event}
    (h : s.schedule = e :: es) : s.nextEvent = e := by simp [State.nextEvent, h]

/-- The next `n` bytes of the sample stream (20_memory.md R66). -/
def State.sampleRun (s : State) (n : Nat) : List Byte :=
  (List.range n).map fun k => s.sampleAt (s.srcIdx + k)

@[simp] theorem State.sampleRun_length (s : State) (n : Nat) : (s.sampleRun n).length = n := by
  simp [State.sampleRun]

/-- The state `n` transfer turns leave (40_risc_program.md R125). -/
def State.afterTransfers (s : State) (n : Nat) : State :=
  { s with
    phys := s.phys.writeBytes s.pw.addr.toNat (s.sampleRun n)
    srcIdx := s.srcIdx + n
    pw := { s.pw with
      addr := s.pw.addr + BitVec.ofNat 33 n, left := s.pw.left - BitVec.ofNat 12 n }
    schedule := s.schedule.drop n
    turn := s.turn + n }

theorem State.afterTransfers_zero (s : State) : s.afterTransfers 0 = s := by
  simp [State.afterTransfers, State.sampleRun]

theorem State.sampleRun_succ (s : State) (n : Nat) :
    s.sampleRun (n + 1) = s.nextSample :: s.consumed.transferred.sampleRun n := by
  simp only [State.sampleRun, List.range_succ_eq_map, List.map_cons, List.map_map]
  refine congrArg _ (List.map_congr_left fun k _ => ?_)
  show s.sampleAt (s.srcIdx + (k + 1)) = s.sampleAt (s.srcIdx + 1 + k)
  rw [Nat.add_assoc, Nat.add_comm 1 k]

/-- One transfer turn, then `n` more. -/
theorem State.afterTransfers_succ {s : State} (h : s.inRing s.pw.addr.toNat = true) (n : Nat) :
    s.consumed.transferred.afterTransfers n = s.afterTransfers (n + 1) := by
  have haddr := State.transferred_addr_toNat (s := s.consumed) h
  have hptr : s.pw.addr + 1#33 + BitVec.ofNat 33 n = s.pw.addr + BitVec.ofNat 33 (n + 1) := by
    bv_omega
  have hleft : s.pw.left - 1#12 - BitVec.ofNat 12 n = s.pw.left - BitVec.ofNat 12 (n + 1) := by
    bv_omega
  have hphys : s.consumed.transferred.phys.writeBytes s.consumed.transferred.pw.addr.toNat
      (s.consumed.transferred.sampleRun n) =
        s.phys.writeBytes s.pw.addr.toNat (s.sampleRun (n + 1)) := by
    rw [haddr, State.sampleRun_succ]; rfl
  unfold State.afterTransfers
  rw [hphys]
  simp [State.transferred, hptr, hleft, Nat.add_assoc, Nat.add_comm 1 n]

/-- A `WRITE` with `n` bytes left completes in `n + 1` turns of the producer: `n` transfers, then
the completion, whatever `CTRL.RUN` is (40_risc_program.md R120, R125, R126). -/
theorem core_run_write {s : State} {n : Nat} {rest : List Event} (he : s.riscErr = false)
    (ha : s.pw.active = true) (hl : s.pw.left.toNat = n)
    (hring : ∀ k, k < n → s.inRing (s.pw.addr.toNat + k) = true)
    (hsched : s.schedule = List.replicate (n + 1) .producer ++ rest) :
    core.run (n + 1) s = .next (completionStep (s.afterTransfers n).consumed) := by
  have hev : s.nextEvent = .producer := State.nextEvent_of_schedule hsched
  induction n generalizing s with
  | zero =>
    have hl0 : s.pw.left = 0 := BitVec.eq_of_toNat_eq hl
    rw [core_run_succ (step_producer_complete hev he ha hl0), State.afterTransfers_zero]
    exact core_run_zero _
  | succ n ih =>
    have hl0 : s.pw.left ≠ 0 := fun h0 => by rw [h0] at hl; cases hl
    have hring0 : s.inRing s.pw.addr.toNat = true := hring 0 (by omega)
    have haddr := State.transferred_addr_toNat (s := s.consumed) hring0
    have hleft := State.transferred_left_toNat (s := s.consumed) hl0
    have hsched' : s.consumed.transferred.schedule =
        List.replicate (n + 1) .producer ++ rest := congrArg List.tail hsched
    rw [core_run_succ ((step_producer_transfer hev he ha hl0).trans (transferStep_eq hring0)),
      ← State.afterTransfers_succ hring0]
    refine ih he ha (hleft.trans (by simp [hl])) (fun k hk => ?_) hsched'
      (State.nextEvent_of_schedule hsched')
    have hbyte := hring (k + 1) (by omega)
    rw [haddr, Nat.add_assoc, Nat.add_comm 1 k]
    exact hbyte

/-- The bytes a `WRITE` fills are the next ones of the sample stream, in order. -/
theorem State.physByte_afterTransfers_at (s : State) {n k : Nat} (hk : k < n) :
    (s.afterTransfers n).physByte (s.pw.addr.toNat + k) = s.sampleAt (s.srcIdx + k) := by
  have hlen : k < (s.sampleRun n).length := by simpa using hk
  refine (s.physByte_physWriteBytes_at s.pw.addr.toNat k _ hlen).trans ?_
  simp [State.sampleRun]

/-- A `WRITE` leaves every byte outside its target alone. -/
theorem State.physByte_afterTransfers_out (s : State) {n a : Nat}
    (ha : a < s.pw.addr.toNat ∨ s.pw.addr.toNat + n ≤ a) :
    (s.afterTransfers n).physByte a = s.physByte a :=
  s.physByte_physWriteBytes_out s.pw.addr.toNat a (s.sampleRun n)
    (by rw [State.sampleRun_length]; omega)

/-- Settles O14: the run ends in the completion of what its transfers leave. -/
theorem writeInFlightRunsToCompletion : Obligations.WriteInFlightRunsToCompletion := by
  intro s n rest he ha hl _ hring hsched
  have hleft : s.pw.left - BitVec.ofNat 12 n = 0 := by
    rw [← hl, BitVec.ofNat_toNat, BitVec.setWidth_eq, BitVec.sub_self]; rfl
  have hrest : (s.schedule.drop n).tail = rest := by
    rw [List.tail_drop, hsched, List.drop_left' List.length_replicate]
  refine ⟨_, core_run_write he ha hl hring hsched, fun k hk => s.physByte_afterTransfers_at hk,
    fun a hout => s.physByte_afterTransfers_out hout, counterAfter_toNat _ _, drdyAfter_eq _ _, ?_⟩
  simp [completionStep, State.consumed, State.afterTransfers, hleft, hrest, Nat.add_assoc]

end Machine

end Sys2Proof
end

section
/-! SUPPORT. The generator: what `GENERATE` answers, the program region it leaves in memory, and the
image as a table of numbers (41_generator.md R141 to R147). -/

namespace Sys2Proof.Machine

open Sys2Proof

/-! ### The answers of `GENERATE` -/

/-- The state `GENERATE` answers (41_generator.md R141, R146). -/
def State.generated (s : State) (sid : Slot) : State :=
  s.writeImage.respond .done sid (BitVec.ofNat 32 (2 * s.params.pageCount + 2))

theorem exec_generate_enabled {s : State} (h : s.producerEnabled = true) (sid : Slot) :
    exec (.generate sid) s = .refused .generateWhileRunning := if_pos h

theorem exec_generate_disabled {s : State} (he : s.producerEnabled = false)
    (hb : s.progBase.toNat + progSize s.params ≤ 2 ^ 32) (sid : Slot) :
    exec (.generate sid) s = .next (s.generated sid) :=
  (if_neg (by simp [he])).trans (if_neg (Nat.not_lt.mpr hb))

/-- Settles O17: either disjunct enables a producer without `RISC_ERR`. -/
theorem generateWhileRunningIsRefused : Obligations.GenerateWhileRunningIsRefused := by
  intro s sid he hrun
  have hen : s.producerEnabled = true := by simpa [State.producerEnabled, he] using hrun
  exact exec_generate_enabled hen sid

/-! ### The program region after a generation -/

@[simp] theorem State.generated_params (s : State) (sid : Slot) :
    (s.generated sid).params = s.params := by simp [State.generated, State.writeImage]

@[simp] theorem State.generated_progBase (s : State) (sid : Slot) :
    (s.generated sid).progBase = s.progBase := by
  simp [State.generated, State.writeImage, State.progBase]

@[simp] theorem State.generated_dst (s : State) (sid : Slot) : (s.generated sid).dst = s.dst := by
  simp [State.generated, State.writeImage]

@[simp] theorem State.generated_page (s : State) (sid : Slot) (i : Nat) :
    (s.generated sid).page i = s.page i := by simp [State.generated, State.writeImage, State.page]

theorem State.generated_phys (s : State) (sid : Slot) :
    (s.generated sid).phys =
      (s.phys.writeBytes s.progBase.toNat (List.replicate (progSize s.params) 0)).writeBytes
        s.progBase.toNat (imageBytes s) := by
  simp [State.generated, State.writeImage, imageBytes]

/-- `GENERATE` changes PHYS and the responses alone. -/
theorem State.generated_eq (s : State) (sid : Slot) :
    s.generated sid = { s with
      phys := (s.generated sid).phys
      responses := responseWord .done sid (BitVec.ofNat 32 (2 * s.params.pageCount + 2)) ::
        s.responses } := by
  simp only [State.generated, State.writeImage, State.physWriteBytes, State.respond]

/-- The image depends on nothing `GENERATE` writes. -/
theorem State.generated_imageWords (s : State) (sid : Slot) :
    imageWords (s.generated sid) = imageWords s := by
  have hpages : pageWrites (s.generated sid) = pageWrites s := by funext i; simp [pageWrites]
  simp [imageWords, programOf, hpages]

/-- The image is written last, so its bytes stand whatever the region held. -/
theorem State.generated_hasImage (s : State) (sid : Slot) : (s.generated sid).hasImage := by
  intro k b hk
  rw [imageBytes, s.generated_imageWords sid] at hk
  obtain ⟨hlt, rfl⟩ := List.getElem?_eq_some_iff.mp hk
  rw [s.generated_phys sid, s.generated_progBase sid]
  exact Memory.read_writeBytes_at _ s.progBase.toNat k (imageBytes s) hlt

/-- Beyond the image the region keeps the zeroes written first (41_generator.md R141). -/
theorem State.generated_slack (s : State) (sid : Slot) {a : Nat} (hlo : (imageBytes s).length ≤ a)
    (hhi : a < progSize s.params) : (s.generated sid).physByte (s.progBase.toNat + a) = 0 := by
  have hlen : a < (List.replicate (progSize s.params) (0 : Byte)).length := by simpa using hhi
  rw [State.physByte, State.generated_phys, Memory.read_writeBytes_out _ _ _ _ (by omega),
    Memory.read_writeBytes_at _ _ _ _ hlen]
  simp

/-- Neither the zeroes nor the image reach outside the region. -/
theorem State.generated_outside {s : State} (hv : s.params.valid) (sid : Slot) {a : Nat}
    (ha : a < s.progBase.toNat ∨ s.progBase.toNat + progSize s.params ≤ a) :
    (s.generated sid).physByte a = s.physByte a := by
  have hfit := imageBytes_length_le hv
  rw [State.physByte, State.generated_phys, Memory.read_writeBytes_out _ _ _ _ (by omega),
    Memory.read_writeBytes_out _ _ _ _ (by rw [List.length_replicate]; omega)]
  rfl

/-- A word whose four bytes stand in PHYS reads back (20_memory.md R68). -/
theorem State.wordAt_of_physBytes {s : State} {a : Nat} {w : Word}
    (h : s.physBytes a 4 = bytesOfWord w) : s.wordAt a = w := by
  simp only [State.physBytes, List.range_succ_eq_map, List.range_zero, List.map_cons, List.map_nil,
    bytesOfWord, List.cons.injEq] at h
  obtain ⟨h0, h1, h2, h3, -⟩ := h
  rw [← wordOfBytes_extract w, ← h0, ← h1, ← h2, ← h3]
  rfl

theorem State.hasImage.wordAt {s : State} (h : s.hasImage) {k : Nat} {w : Word}
    (hk : (imageWords s)[k]? = some w) : s.wordAt (s.progBase.toNat + 4 * k) = w :=
  State.wordAt_of_physBytes (h.physBytes_four hk)

/-- Settles O53. -/
theorem generateMakesTheImage : Obligations.GenerateMakesTheImage := by
  intro s t sid _ h
  obtain ⟨-, -, rfl⟩ := execGenerate_next h
  exact s.generated_hasImage sid

/-- Settles O15: the words through `hasImage`, the other bytes by which of the two writes reaches
them. -/
theorem generateWritesTheImage : Obligations.GenerateWritesTheImage := by
  intro s sid hv he hb
  refine ⟨s.generated sid, exec_generate_disabled he hb sid, fun k w hk => ?_,
    fun a hlo hhi => ?_, fun a ha => State.generated_outside hv sid ha,
    fun a => by simp [State.dstByte], s.generated_eq sid⟩
  · rw [← s.generated_imageWords sid] at hk
    rw [← s.generated_progBase sid]
    exact (s.generated_hasImage sid).wordAt hk
  · exact s.generated_slack sid (by rwa [imageBytes, flatMap_bytes_length]) hhi

/-! ### The words of the image as numbers -/

theorem programOf_length (s : State) : (programOf s).length = 2 * s.params.pageCount + 2 := by
  have hpages : ((List.range s.params.pageCount).flatMap (pageWrites s)).length =
      2 * s.params.pageCount := by
    simp [List.length_flatMap, pageWrites, Nat.mul_comm]
  simp [programOf, hpages]

/-- The two words of `WRITE` number `j` of the program, `j` from 0 (41_generator.md R142). -/
theorem imageWords_write (s : State) {j : Nat} (hj : j < 2 * s.params.pageCount) :
    (imageWords s)[1 + 2 * j]? = some (writeWord0 (irqFlag (j + 1)) (imageCc s.params j)
      (BitVec.ofNat 12 (clusterSize s.params))) ∧
    (imageWords s)[1 + (2 * j + 1)]? = some (s.imageTarget j) := by
  obtain ⟨irq, cc, bc, a, -, h0, h1, rfl, rfl, rfl, rfl⟩ := pageWrites_getElem? s j _ hj
  rw [imageWords_getElem?_succ, imageWords_getElem?_succ, if_pos (by omega), if_pos (by omega)]
  exact ⟨h0, h1⟩

theorem imageWords_jump (s : State) :
    (imageWords s)[1 + 4 * s.params.pageCount]? = some 0x70000000#32 ∧
    (imageWords s)[1 + (4 * s.params.pageCount + 1)]? = some (s.progBase + 4) := by
  rw [imageWords_getElem?_succ, imageWords_getElem?_succ, if_neg (by omega), if_neg (by omega)]
  simp

/-- Word 0 of a `WRITE` of `n` bytes as the table writes it (41_generator.md R142). -/
theorem writeWord0_eq_ofNat (irq : Bool) (cc : BitVec 2) {n : Nat} (hn : n < 4096) :
    writeWord0 irq cc (BitVec.ofNat 12 n) =
      BitVec.ofNat 32 (0x10000000 + irq.toNat * 2 ^ 24 + cc.toNat * 2 ^ 16 + n) := by
  have hirq := irq.toNat_le
  have hcc := cc.isLt
  apply BitVec.eq_of_toNat_eq
  rw [writeWord0_toNat, BitVec.toNat_ofNat, BitVec.toNat_ofNat, Nat.mod_eq_of_lt hn,
    Nat.mod_eq_of_lt (by omega)]

/-- The interrupt bit of the `n`-th `WRITE`, `n` from 1 (41_generator.md R144). -/
theorem irqFlag_bit (n : Nat) :
    (irqFlag n).toNat * 2 ^ 24 = if n % 512 = 0 then 2 ^ 24 else 0 := by
  unfold irqFlag irqPeriod
  split <;> simp [*]

/-- The counter-control bits of the second half of page `i` (41_generator.md R143). -/
theorem secondHalfCc_bits {p i : Nat} :
    (secondHalfCc p i).toNat * 2 ^ 16 = if i < p - 1 then 2 ^ 16 else 3 * 2 ^ 16 := by
  have hlast : i + 1 < p ↔ i < p - 1 := by omega
  simp only [secondHalfCc, hlast]
  split <;> rfl

theorem imageCc_first (p : Params) (i : Nat) : imageCc p (2 * i) = 0b00#2 :=
  if_pos (by omega)

theorem imageCc_second (p : Params) (i : Nat) :
    imageCc p (2 * i + 1) = secondHalfCc p.pageCount i := by
  rw [imageCc, if_neg (by omega), show (2 * i + 1) / 2 = i by omega]

theorem State.imageTarget_first (s : State) (i : Nat) : s.imageTarget (2 * i) = s.page i := by
  rw [State.imageTarget, if_pos (by omega), show 2 * i / 2 = i by omega]

/-- The second half of a page begins half a page up. -/
theorem State.imageTarget_second (s : State) (i : Nat) :
    s.imageTarget (2 * i + 1) = BitVec.ofNat 32 ((s.page i).toNat + clusterSize s.params) := by
  rw [State.imageTarget, if_neg (by omega), show (2 * i + 1) / 2 = i by omega, BitVec.ofNat_add,
    BitVec.ofNat_toNat, BitVec.setWidth_eq]

/-- The four words of page `i` (41_generator.md R142 to R144). -/
theorem imageWords_page {s : State} (hv : s.params.valid) {i : Nat} (hi : i < s.params.pageCount) :
    (imageWords s)[1 + 4 * i]? = some (BitVec.ofNat 32
      (0x10000000 + (if (2 * i + 1) % 512 = 0 then 2 ^ 24 else 0) + s.params.pageSize / 2)) ∧
    (imageWords s)[2 + 4 * i]? = some (s.page i) ∧
    (imageWords s)[3 + 4 * i]? = some (BitVec.ofNat 32
      (0x10000000 + (if (2 * i + 2) % 512 = 0 then 2 ^ 24 else 0) +
        (if i < s.params.pageCount - 1 then 2 ^ 16 else 3 * 2 ^ 16) + s.params.pageSize / 2)) ∧
    (imageWords s)[4 + 4 * i]? =
      some (BitVec.ofNat 32 ((s.page i).toNat + s.params.pageSize / 2)) := by
  have hc : clusterSize s.params < 4096 := by
    obtain ⟨-, -, hmax, -⟩ := hv
    exact Nat.lt_succ_of_le hmax
  obtain ⟨h1, h2⟩ := imageWords_write s (j := 2 * i) (by omega)
  obtain ⟨h3, h4⟩ := imageWords_write s (j := 2 * i + 1) (by omega)
  rw [imageCc_first, writeWord0_eq_ofNat _ _ hc, irqFlag_bit, BitVec.toNat_zero, Nat.zero_mul,
    Nat.add_zero] at h1
  rw [State.imageTarget_first] at h2
  rw [imageCc_second, writeWord0_eq_ofNat _ _ hc, irqFlag_bit, secondHalfCc_bits] at h3
  rw [State.imageTarget_second] at h4
  refine ⟨?_, ?_, ?_, ?_⟩
  · rw [show 1 + 4 * i = 1 + 2 * (2 * i) by omega]; exact h1
  · rw [show 2 + 4 * i = 1 + (2 * (2 * i) + 1) by omega]; exact h2
  · rw [show 3 + 4 * i = 1 + 2 * (2 * i + 1) by omega]; exact h3
  · rw [show 4 + 4 * i = 1 + (2 * (2 * i + 1) + 1) by omega]; exact h4

/-- Settles O16: the `SYNC`, the words of each page, the `JUMP`. -/
theorem imageIsTheTableOfWords : Obligations.ImageIsTheTableOfWords := by
  intro s hv
  obtain ⟨hjump, htarget⟩ := imageWords_jump s
  refine ⟨programOf_length s, imageWords_length s, by rw [imageWords_eq]; rfl,
    fun i hi => imageWords_page hv hi, hjump, ?_⟩
  rw [show 2 + 4 * s.params.pageCount = 1 + (4 * s.params.pageCount + 1) by omega]
  exact htarget

end Sys2Proof.Machine
end

section
/-! SUPPORT. The ring arithmetic: the write-pointer tracker as a remainder, the consumer's address map
along the stream, the chunk clamp and the lag (42_ring_arithmetic.md R160 to R169). -/

namespace Sys2Proof.Machine

open Sys2Proof

/-! ### The write-pointer tracker -/

/-- `initial_page_of` is the Euclidean remainder, for every counter value
(42_ring_arithmetic.md R162). -/
theorem initialPageOf_cast {pageCount : Nat} (hp : 0 < pageCount) (raw : Nat) :
    (initialPageOf pageCount raw : Int) = ((raw : Int) - 1) % (pageCount : Int) :=
  Int.toNat_of_nonneg (Int.emod_nonneg _ (by omega))

/-- At counter 0 `initial_page_of` names the last page (42_ring_arithmetic.md R162). -/
theorem initialPageOf_zero {pageCount : Nat} (hp : 0 < pageCount) :
    initialPageOf pageCount 0 = pageCount - 1 := by
  have hcast := initialPageOf_cast hp 0
  have hwrap : ((0 : Nat) : Int) - 1 + pageCount * 1 = pageCount - 1 := by ring
  rw [← Int.add_mul_emod_self_left _ _ 1, hwrap, Int.emod_eq_of_lt (by omega) (by omega)] at hcast
  omega

/-- `initial_page_of` subtracts 1 from a counter between 1 and `PAGE_COUNT`
(42_ring_arithmetic.md R162). -/
theorem initialPageOf_pos {pageCount raw : Nat} (hlo : 1 ≤ raw) (hhi : raw ≤ pageCount) :
    initialPageOf pageCount raw = raw - 1 := by
  have hcast := initialPageOf_cast (show 0 < pageCount by omega) raw
  rw [Int.emod_eq_of_lt (by omega) (by omega)] at hcast
  omega

/-- Below `PAGE_COUNT` a session opens at the page completed last (42_ring_arithmetic.md R168). -/
theorem initialPageOf_eq_lastCompletedPage {pageCount raw : Nat} (h : raw < pageCount) :
    initialPageOf pageCount raw = lastCompletedPage pageCount raw := by
  unfold lastCompletedPage
  split
  next h0 => rw [h0, initialPageOf_zero (by omega)]
  next h0 => exact initialPageOf_pos (Nat.pos_of_ne_zero h0) h.le

/-- The counter may be taken modulo `PAGE_COUNT` before `initial_page_of`. -/
theorem initialPageOf_mod_cast {pageCount : Nat} (hp : 0 < pageCount) (n : Nat) :
    (initialPageOf pageCount (n % pageCount) : Int) = ((n : Int) - 1) % (pageCount : Int) := by
  rw [initialPageOf_cast hp, Int.natCast_emod, Int.emod_sub_emod]

/-- Where `PAGE_COUNT` divides the range of the counter, `0 - 1` may as well wrap around
(42_ring_arithmetic.md R162). -/
theorem initialPageOf_eq_wrap {pageCount m : Nat} (hp : 0 < pageCount) (hm : 0 < m)
    (hdvd : pageCount ∣ m) (raw : Nat) :
    initialPageOf pageCount raw = (raw + (m - 1)) % m % pageCount := by
  obtain ⟨c, rfl⟩ := hdvd
  rw [Nat.mod_mod_of_dvd _ (Nat.dvd_mul_right _ _)]
  have hshift : ((raw + (pageCount * c - 1) : Nat) : Int) = (raw : Int) - 1 + pageCount * c := by
    rw [← Int.natCast_mul]; omega
  have hcast : (initialPageOf pageCount raw : Int) =
      ((raw + (pageCount * c - 1)) % pageCount : Nat) := by
    rw [initialPageOf_cast hp, Int.natCast_emod, hshift, Int.add_mul_emod_self_left]
  exact Int.ofNat_inj.mp hcast

/-- Settles O44. -/
theorem trackerFunctionsByCases : Obligations.TrackerFunctionsByCases := by
  intro pageCount raw hp _
  have hpos : 0 < pageCount := by omega
  refine ⟨rfl, initialPageOf_cast hpos raw, initialPageOf_zero hpos,
    fun ⟨hlo, hhi⟩ => initialPageOf_pos hlo hhi, initialPageOf_eq_lastCompletedPage, ?_⟩
  rintro k hk rfl
  exact initialPageOf_eq_wrap hpos (Nat.two_pow_pos 32) (Nat.pow_dvd_pow 2 hk) raw

/-! ### The address map -/

/-- The page of a position: the whole pages before it, counted on from the initial page and around
the ring (42_ring_arithmetic.md R163). -/
theorem pageOf_eq (p : Params) (ip pos : Nat) :
    pageOf p ip pos = (ip + pos / p.pageSize) % p.pageCount := by
  rw [pageOf, ringSize, Nat.mod_mul_left_div_self, Nat.add_mod_mod]

/-- Going on by `d` bytes goes on by the page ends passed on the way. -/
theorem pageOf_add {p : Params} (hz : 0 < p.pageSize) (ip pos d : Nat) :
    pageOf p ip (pos + d) =
      (pageOf p ip pos + (offsetOf p pos + d) / p.pageSize) % p.pageCount := by
  have hsplit : pos + d = offsetOf p pos + d + p.pageSize * (pos / p.pageSize) := by
    have := Nat.mod_add_div pos p.pageSize
    unfold offsetOf
    omega
  rw [pageOf_eq, pageOf_eq, Nat.mod_add_mod, hsplit, Nat.add_mul_div_left _ _ hz]
  congr 1
  omega

theorem offsetOf_add (p : Params) (pos d : Nat) :
    offsetOf p (pos + d) = (offsetOf p pos + d) % p.pageSize := (Nat.mod_add_mod _ _ _).symm

theorem offsetOf_lt {p : Params} (hz : 0 < p.pageSize) (pos : Nat) : offsetOf p pos < p.pageSize :=
  Nat.mod_lt _ hz

theorem pageOf_lt {p : Params} (hp : 0 < p.pageCount) (ip pos : Nat) :
    pageOf p ip pos < p.pageCount := Nat.mod_lt _ hp

/-- Law (b): a whole ring further is the same place (42_ring_arithmetic.md R164). -/
theorem pagemap_add_ringSize {p : Params} (hz : 0 < p.pageSize) (ip pos : Nat) :
    pagemap p ip (pos + ringSize p) = pagemap p ip pos := by
  have hpage : pageOf p ip (pos + ringSize p) = pageOf p ip pos := by
    rw [pageOf_eq, pageOf_eq, ringSize, Nat.add_mul_div_right _ _ hz, ← Nat.add_assoc,
      Nat.add_mod_right]
  have hoff : offsetOf p (pos + ringSize p) = offsetOf p pos := Nat.add_mul_mod_self_right _ _ _
  rw [pagemap, hpage, hoff, pagemap]

/-- Law (c): a session starts at byte 0 of its initial page (42_ring_arithmetic.md R164). -/
theorem pagemap_zero {p : Params} {ip : Nat} (hip : ip < p.pageCount) : pagemap p ip 0 = (ip, 0) := by
  rw [pagemap, pageOf_eq, offsetOf, Nat.zero_div, Nat.zero_mod, Nat.add_zero, Nat.mod_eq_of_lt hip]

/-- Law (d): page after page of the stream is page after page of the ring
(42_ring_arithmetic.md R164). -/
theorem pageOf_mul_pageSize {p : Params} (hz : 0 < p.pageSize) (ip i : Nat) :
    pageOf p ip (i * p.pageSize) = (ip + i) % p.pageCount := by
  rw [pageOf_eq, Nat.mul_div_cancel _ hz]

/-- Law (e): the bytes up to the page end follow one another in the page
(42_ring_arithmetic.md R164). -/
theorem pagemap_add_of_lt {p : Params} {pos d : Nat} (h : offsetOf p pos + d < p.pageSize)
    (ip : Nat) : pagemap p ip (pos + d) = (pageOf p ip pos, offsetOf p pos + d) := by
  rw [pagemap, pageOf_add (by omega), offsetOf_add, Nat.div_eq_of_lt h, Nat.mod_eq_of_lt h,
    Nat.add_zero, pageOf, Nat.mod_mod]

/-- Law (f): after the last byte of a page comes byte 0 of the next page of the ring
(42_ring_arithmetic.md R164). -/
theorem pagemap_add_of_eq {p : Params} (hz : 0 < p.pageSize) {pos d : Nat}
    (h : offsetOf p pos + d = p.pageSize) (ip : Nat) :
    pagemap p ip (pos + d) = ((pageOf p ip pos + 1) % p.pageCount, 0) := by
  rw [pagemap, pageOf_add hz, offsetOf_add, h, Nat.div_self hz, Nat.mod_self]

/-- Law (g): the sum the map reduces stays below `2 * PAGE_COUNT - 1`
(42_ring_arithmetic.md R164). -/
theorem page_sum_le {p : Params} {ip : Nat} (hip : ip < p.pageCount) (pos : Nat) :
    ip + pos % ringSize p / p.pageSize ≤ 2 * p.pageCount - 2 := by
  have hlt : pos % ringSize p / p.pageSize < p.pageCount := by
    rw [ringSize, Nat.mod_mul_left_div_self]
    exact Nat.mod_lt _ (by omega)
  omega

/-- Settles O45, law by law. -/
theorem pagemapLaws : Obligations.PagemapLaws := by
  intro p ip pos d hv hip
  obtain ⟨-, hz12, -, hp, -⟩ := hv
  have hz : 0 < p.pageSize := by omega
  exact ⟨⟨pageOf_lt (by omega) ip pos, offsetOf_lt hz pos⟩, pagemap_add_ringSize hz ip pos,
    pagemap_zero hip, fun i _ => pageOf_mul_pageSize hz ip i, fun h => pagemap_add_of_lt h ip,
    fun h => pagemap_add_of_eq hz h ip, page_sum_le hip pos⟩

/-! ### The chunk clamp -/

/-- A chunk ends at or before the end of its page (42_ring_arithmetic.md R165). -/
theorem offsetOf_add_chunkLen_le {p : Params} (hz : 0 < p.pageSize) (pos rem : Nat) :
    offsetOf p pos + chunkLen p pos rem ≤ p.pageSize := by
  have hoff := offsetOf_lt hz pos
  have hclamp : chunkLen p pos rem ≤ p.pageSize - offsetOf p pos := Nat.min_le_left _ _
  omega

/-- While bytes are requested a chunk is not empty (42_ring_arithmetic.md R165). -/
theorem chunkLen_pos {p : Params} (hz : 0 < p.pageSize) (pos : Nat) {rem : Nat} (hr : 0 < rem) :
    1 ≤ chunkLen p pos rem :=
  Nat.le_min.mpr ⟨Nat.sub_pos_of_lt (offsetOf_lt hz pos), hr⟩

/-- Settles O46: law (e) of the map holds up to the end of the chunk. -/
theorem chunkStaysInOnePage : Obligations.ChunkStaysInOnePage := by
  intro p pos rem hv hr
  obtain ⟨-, hz12, -⟩ := hv
  have hz : 0 < p.pageSize := by omega
  have hend := offsetOf_add_chunkLen_le hz pos rem
  refine ⟨rfl, chunkLen_pos hz pos hr, by omega, hend, fun k hk ip => ?_⟩
  exact congrArg Prod.fst (pagemap_add_of_lt (p := p) (pos := pos) (d := k) (by omega) ip)

/-! ### Lag -/

/-- The page of a session that opened when `n` pages were completed, as a remainder of the pages
completed and consumed (42_ring_arithmetic.md R169). -/
theorem pageOf_initialPageOf_cast {p : Params} (hp : 0 < p.pageCount) (n pos : Nat) :
    (pageOf p (initialPageOf p.pageCount (n % p.pageCount)) pos : Int) =
      ((n : Int) - 1 + (pos / p.pageSize : Nat)) % (p.pageCount : Int) := by
  rw [pageOf_eq, Int.natCast_emod, Int.natCast_add, initialPageOf_mod_cast hp, Int.emod_add_emod]

/-- Settles O47: both pages are remainders modulo `PAGE_COUNT`, and the lag is the difference of the
two dividends. -/
theorem caughtUpIffLagIsWholeLaps : Obligations.CaughtUpIffLagIsWholeLaps := by
  intro p nc nc0 pos hv _
  obtain ⟨-, -, -, hp2, -⟩ := hv
  have hp : 0 < p.pageCount := by omega
  have hlag : (nc : Int) - 1 - ((nc0 : Int) - 1 + (pos / p.pageSize : Nat)) = lag p nc nc0 pos := by
    unfold lag; ring
  rw [caughtUp, ← initialPageOf_eq_lastCompletedPage (Nat.mod_lt nc hp), ← Int.ofNat_inj,
    pageOf_initialPageOf_cast hp, initialPageOf_mod_cast hp, eq_comm,
    Int.emod_eq_emod_iff_emod_sub_eq_zero, hlag]

/-! ### A slot that opens -/

/-- Writing one slot gives a slot that value, or leaves it (the list of slots may be too short). -/
theorem State.session_setSession_or (s : State) (i j : Nat) (v : Session) :
    (s.setSession i v).session j = s.session j ∨
      (j = i ∧ (s.setSession i v).session j = v) := by
  by_cases hij : j = i
  · subst hij
    obtain hlt | hge := Nat.lt_or_ge j s.sess.length
    · exact .inr ⟨rfl, s.session_setSession_same v hlt⟩
    · exact .inl (State.session_congr (List.set_eq_of_length_le hge) j)
  · exact .inl (s.session_setSession_ne v hij)

/-- What a command can make of a session: leave it, open it at position 0, or close it
(43_session_commands.md R181, R183). -/
theorem CommandStep.session_cases {s t : State} (h : CommandStep s t) (i : Nat) :
    t.session i = s.session i ∨
      t.session i = { valid := true, pos := 0, initialPage := s.openPage } ∨
      t.session i = s.closedSession := by
  cases h
  case refused => exact .inl rfl
  case opened sid _ _ =>
    obtain hsame | ⟨-, hopen⟩ := s.session_setSession_or sid.toNat i
      { valid := true, pos := 0, initialPage := s.openPage }
    · exact .inl hsame
    · exact .inr (.inl hopen)
  case closed sid _ _ =>
    obtain hsame | ⟨-, hclosed⟩ := s.session_setSession_or sid.toNat i s.closedSession
    · exact .inl hsame
    · exact .inr (.inr hclosed)
  case accepted => unfold acceptRead; dsimp only; split <;> exact .inl rfl
  case generated => exact .inl (State.session_congr (by simp [State.writeImage]) i)

/-- A read engine opens and closes no session (43_session_commands.md R192). -/
theorem EngineStep.session_valid {s t : State} {j : Nat} (h : EngineStep s j t) (i : Nat) :
    (t.session i).valid = (s.session i).valid := by
  obtain hsame | ⟨rfl, -, -, rfl⟩ := h.session (i := i)
  · rw [hsame]
  · obtain hsame | ⟨-, hmoved⟩ := s.session_setSession_or i i { s.session i with
      pos := (s.session i).pos + BitVec.ofNat 64 (s.engine i).clen }
    · exact congrArg Session.valid hsame
    · exact (congrArg Session.valid hmoved :)

/-- A slot opens at position 0, and only in a step of the command decoder
(43_session_commands.md R181). -/
theorem OtherStep.opens {s t : State} {e : Event} (h : OtherStep s e t) {i : Nat}
    (hi : i < s.params.nsess) (h0 : (s.session i).valid = false) (h1 : (t.session i).valid = true) :
    (∃ w, e = .command w) ∧ (t.session i).pos = 0 := by
  have hchange : (t.session i).valid ≠ (s.session i).valid := by rw [h0, h1]; nofun
  cases h
  case command w k hd hx =>
    refine ⟨⟨w, rfl⟩, ?_⟩
    obtain hsame | hopen | hclosed := (exec_command_next hd hx).session_cases i
    · exact absurd (congrArg Session.valid hsame) hchange
    · rw [hopen]
    · rw [hclosed] at h1; cases h1
  case engine j hx => exact absurd ((engineStep_next hx).session_valid i) hchange
  case badCommand => exact absurd rfl hchange
  case regRead off hx => obtain ⟨r, -, rfl⟩ := regRead_next hx; exact absurd rfl hchange
  case regWrite off v hx =>
    obtain ⟨-, -, hsess, -⟩ := regWrite_frame hx
    exact absurd (congrArg Session.valid (State.session_congr hsess i)) hchange
  case reset => rw [session_resetEvent hi] at h1; cases h1
  case setDstAdmit => exact absurd rfl hchange
  case hostStore a vs hx => obtain ⟨-, -, -, rfl⟩ := hostStore_next hx; exact absurd rfl hchange
  case hostStoreDst a vs hx => obtain ⟨-, rfl⟩ := hostStoreDst_next hx; exact absurd rfl hchange

/-- The same of a whole step: the producer opens no slot. -/
theorem step_opens {s t : State} {i : Nat} (h : step s = .next t) (hi : i < s.params.nsess)
    (h0 : (s.session i).valid = false) (h1 : (t.session i).valid = true) :
    (∃ w, s.nextEvent = .command w) ∧ (t.session i).pos = 0 := by
  obtain ⟨-, hp⟩ | ho := step_next h
  · rw [hp.session i, State.session_consumed, h0] at h1; cases h1
  · exact ho.opens hi h0 h1

/-- A command leaves `NC` (42_ring_arithmetic.md R169). -/
theorem Ledger.next_nc_command {s t : State} {w : CmdWord} (g : Ledger)
    (hev : s.nextEvent = .command w) (h : step s = .next t) : (g.next s t).nc = g.nc := by
  obtain ⟨v, hw, -⟩ | hk := step_other_kept (by rw [hev]; nofun) (by rw [hev]; nofun) h
  · rw [hev] at hw; cases hw
  · exact Ledger.next_nc_same hk.run_of_run (by simp [State.completesNow, hev])

/-- A slot that opens records `NC` (42_ring_arithmetic.md R169). -/
theorem Ledger.next_nc0_open {s t : State} (g : Ledger) {i : Nat} (hi : i < s.params.nsess)
    (h0 : (s.session i).valid = false) (h1 : (t.session i).valid = true) :
    (g.next s t).nc0.getD i 0 = g.nc := by
  simp [Ledger.next, hi, h0, h1]

/-- Settles O60: the slot opens in a command step, at position 0, where `NC` stands. -/
theorem openSessionsStartAtLagZero : Obligations.OpenSessionsStartAtLagZero := by
  intro s t i g hstep hi h0 h1
  obtain ⟨⟨w, hev⟩, hpos⟩ := step_opens hstep hi h0 h1
  rw [g.next_nc_command hev hstep, g.next_nc0_open hi h0 h1, hpos]
  simp [lag]

end Sys2Proof.Machine
end

section
/-! SUPPORT. The session commands: what an accepted `OPEN`, `CLOSE` and `READ` leave, in plain numbers
(43_session_commands.md R181 to R186). -/

namespace Sys2Proof.Machine

open Sys2Proof

/-! ### What the commands compute -/

/-- The snapshot of `OPEN` fits its register (43_session_commands.md R181). -/
theorem State.openPage_toNat {s : State} (h : s.params.valid) :
    s.openPage.toNat = initialPageOf s.params.pageCount s.gpcnt.toNat := by
  have hlt := pageCount_lt_of_valid h
  obtain ⟨-, -, -, hp, -⟩ := h
  have hcast := initialPageOf_cast (show 0 < s.params.pageCount by omega) s.gpcnt.toNat
  have hmod := Int.emod_lt_of_pos ((s.gpcnt.toNat : Int) - 1)
    (show (0 : Int) < s.params.pageCount by omega)
  rw [State.openPage, BitVec.toNat_ofNat, Nat.mod_eq_of_lt (by omega)]

/-- The last completed page fits its register (42_ring_arithmetic.md R160). -/
theorem State.hwPage_toNat {s : State} (h : s.params.valid) :
    s.hwPage.toNat = lastCompletedPage s.params.pageCount s.gpcnt.toNat := by
  have hlt := pageCount_lt_of_valid h
  have hcounter := s.gpcnt.isLt
  have hpage : lastCompletedPage s.params.pageCount s.gpcnt.toNat < 2 ^ 32 := by
    unfold lastCompletedPage; split <;> omega
  rw [State.hwPage, BitVec.toNat_ofNat, Nat.mod_eq_of_lt hpage]

theorem targetPage_toNat {p : Params} (h : p.valid) (v : Session) (pos : Nat) :
    (targetPage p v pos).toNat = pageOf p v.initialPage.toNat pos := by
  have hlt := pageCount_lt_of_valid h
  obtain ⟨-, -, -, hp, -⟩ := h
  have hpage := pageOf_lt (show 0 < p.pageCount by omega) v.initialPage.toNat pos
  rw [targetPage, BitVec.toNat_ofNat, Nat.mod_eq_of_lt (by omega)]

/-! ### What the commands leave -/

/-- Settles O18. -/
theorem openTakesTheSnapshot : Obligations.OpenTakesTheSnapshot := by
  intro s sid hshape hs hv
  obtain ⟨-, -, -, hp, -⟩ := hshape.sizes
  refine ⟨_, s.openPage, execOpenSession_opens hs hv, ?_, ?_, fun j hj => ?_, rfl,
    sameMemory_of_eq rfl rfl⟩
  · rw [State.openPage_toNat hshape.sizes, initialPageOf_cast (by omega)]
  · exact s.session_setSession_same _ (by rw [hshape.sessions]; exact hs)
  · exact s.session_setSession_ne _ hj

/-- A `CLOSE` of an open slot with an idle engine passes its checks (43_session_commands.md R183). -/
theorem exec_closeSession_closes {sid : Slot} {s : State} (h : slotCheck sid s = none) :
    exec (.closeSession sid) s = .next ({ (s.setSession sid.toNat s.closedSession) with
      intmsk := false, freeUses := s.freeUses + 1 }.respond .done sid 0) := by
  simp only [exec, execCloseSession, h]

/-- An open slot with an idle engine passes the checks `CLOSE` and `READ` share. -/
theorem slotCheck_of_idle {sid : Slot} {s : State} (hs : sid.toNat < s.params.nsess)
    (hv : (s.session sid.toNat).valid = true) (hp : (s.engine sid.toNat).phase = .idle) :
    slotCheck sid s = none :=
  (slotCheck_of_open hs hv).trans (if_neg (not_not_intro hp))

/-- Settles O19. -/
theorem closeReleasesTheSlot : Obligations.CloseReleasesTheSlot := by
  intro s sid hshape hs hv hp
  refine ⟨_, exec_closeSession_closes (slotCheck_of_idle hs hv hp), ?_, fun j hj => ?_, rfl,
    sameMemory_of_eq rfl rfl⟩
  · exact congrArg Session.valid
      (s.session_setSession_same s.closedSession (by rw [hshape.sessions]; exact hs))
  · exact s.session_setSession_ne _ hj

/-! ### The accept step of `READ` -/

/-- The engine an accepted `READ` leaves (43_session_commands.md R186). -/
def State.acceptedEngine (s : State) (nb : Bool) (sid : Slot) (len : Word) (dst : Long) : ReadEngine :=
  { s.latched nb sid len dst with
    phase := if (s.latched nb sid len dst).tgt = s.hwPage ∧ nb = true then .idle else .loop }

/-- What an accepted `READ` of an idle slot leaves: its engine, and the response if it is caught up and
non-blocking (43_session_commands.md R186). -/
theorem acceptRead_eq {nb : Bool} {sid : Slot} {len : Word} {dst : Long} {s : State}
    (hp : (s.engine sid.toNat).phase = .idle) :
    acceptRead nb sid len dst s =
      { s with
        rd := s.rd.set sid.toNat (s.acceptedEngine nb sid len dst)
        responses :=
          if (s.latched nb sid len dst).tgt = s.hwPage ∧ nb = true then
            responseWord .done sid 0 :: s.responses
          else s.responses } := by
  unfold acceptRead State.acceptedEngine
  by_cases hc : (s.latched nb sid len dst).tgt = s.hwPage ∧ nb = true
  · have hidle : { s.latched nb sid len dst with phase := .idle } = s.latched nb sid len dst := by
      rw [← hp]; rfl
    rw [if_pos hc, if_pos hc, hidle]
    exact if_pos hc
  · rw [if_neg hc, if_neg hc]
    exact if_neg hc

/-- A `READ` that passes its checks is accepted (43_session_commands.md R185, R186). -/
theorem exec_read_accepted {nb : Bool} {sid : Slot} {len : Word} {dst : Long} {s : State}
    (hs : sid.toNat < s.params.nsess) (hv : (s.session sid.toNat).valid = true)
    (hp : (s.engine sid.toNat).phase = .idle)
    (hpos : (s.session sid.toNat).pos.toNat + len.toNat < 2 ^ 64)
    (hdst : dst.toNat + len.toNat ≤ 2 ^ 64) :
    exec (.read nb sid len dst) s = .next (acceptRead nb sid len dst s) := by
  have hcheck : readCheck sid len dst s = none := by
    simp only [readCheck, slotCheck_of_idle hs hv hp, if_neg (Nat.not_le.mpr hpos),
      if_neg (Nat.not_lt.mpr hdst)]
  simp only [exec, execRead, hcheck]

/-- Settles O20. -/
theorem readAcceptLatchesAndStarts : Obligations.ReadAcceptLatchesAndStarts := by
  intro s nb sid len dst hshape hs hv hp hpos hdst
  refine ⟨_, (s.latched nb sid len dst).tgt, s.hwPage,
    (exec_read_accepted hs hv hp hpos hdst).trans (congrArg _ (acceptRead_eq hp)),
    targetPage_toNat hshape.sizes _ _, State.hwPage_toNat hshape.sizes, ?_, fun j hj => ?_, rfl,
    sameMemory_of_eq rfl rfl⟩
  · exact s.engine_setEngine_same _ (by rw [hshape.engines]; exact hs)
  · exact s.engine_setEngine_ne _ hj

/-! ### A fresh session -/

/-- The snapshot of `OPEN` is the last completed page exactly for a counter up to `PAGE_COUNT`
(42_ring_arithmetic.md R160, R162; log 22). -/
theorem State.openPage_eq_hwPage_iff {s : State} (h : s.params.valid) :
    s.openPage = s.hwPage ↔ s.gpcnt.toNat ≤ s.params.pageCount := by
  obtain ⟨-, -, -, hp, -⟩ := id h
  rw [← BitVec.toNat_inj, State.hwPage_toNat h]
  constructor
  · intro heq
    have hlt := State.openPage_lt h
    rw [heq, lastCompletedPage] at hlt
    split at hlt <;> omega
  · intro hle
    rw [State.openPage_toNat h, lastCompletedPage]
    split
    next h0 => rw [h0, initialPageOf_zero (by omega)]
    next h0 => exact initialPageOf_pos (Nat.pos_of_ne_zero h0) hle

/-- At position 0 the target page is the initial page (42_ring_arithmetic.md R164). -/
theorem targetPage_zero {p : Params} {v : Session} (h : v.initialPage.toNat < p.pageCount) :
    targetPage p v 0 = v.initialPage := by
  have hzero := congrArg Prod.fst (pagemap_zero h)
  rw [targetPage, show pageOf p v.initialPage.toNat 0 = v.initialPage.toNat from hzero,
    BitVec.ofNat_toNat, BitVec.setWidth_eq]

/-- The state `OPEN` of a closed slot leaves (43_session_commands.md R181). -/
def State.openedSlot (s : State) (sid : Slot) : State :=
  { (s.setSession sid.toNat { valid := true, pos := 0, initialPage := s.openPage }) with
    intmsk := true }.respond .done sid s.openPage

theorem State.openedSlot_session {s : State} {sid : Slot} (hshape : ShapeInv s)
    (hs : sid.toNat < s.params.nsess) : (s.openedSlot sid).session sid.toNat =
      { valid := true, pos := 0, initialPage := s.openPage } :=
  s.session_setSession_same _ (by rw [hshape.sessions]; exact hs)

/-- The target page of a `READ` straight after `OPEN` is the snapshot. -/
theorem State.openedSlot_target {s : State} {sid : Slot} (hshape : ShapeInv s)
    (hs : sid.toNat < s.params.nsess) (nb : Bool) (len : Word) (dst : Long) :
    ((s.openedSlot sid).latched nb sid len dst).tgt = s.openPage := by
  have htgt : ((s.openedSlot sid).latched nb sid len dst).tgt =
      targetPage s.params ((s.openedSlot sid).session sid.toNat)
        ((s.openedSlot sid).session sid.toNat).pos.toNat := rfl
  rw [htgt, State.openedSlot_session hshape hs]
  exact targetPage_zero (State.openPage_lt hshape.sizes)

/-- Settles O23: the accept step compares the snapshot with the last completed page of the same
counter. -/
theorem freshSessionIsCaughtUp : Obligations.FreshSessionIsCaughtUp := by
  intro s sid len dst hshape hs hv hp hdst
  have hsess := State.openedSlot_session hshape hs
  have htgt := State.openedSlot_target hshape hs true len dst
  have hiff := State.openPage_eq_hwPage_iff hshape.sizes
  have hhw : (s.openedSlot sid).hwPage = s.hwPage := rfl
  have hlen := len.isLt
  have hread : exec (.read true sid len dst) (s.openedSlot sid) =
      .next (acceptRead true sid len dst (s.openedSlot sid)) :=
    exec_read_accepted hs (by rw [hsess]) hp
      (by rw [hsess]; show 0 + len.toNat < 2 ^ 64; omega) hdst
  refine ⟨s.openedSlot sid, _, execOpenSession_opens hs hv,
    hread.trans (congrArg _ (acceptRead_eq hp)), rfl, sameMemory_of_eq rfl rfl, ?_⟩
  have heng := (s.openedSlot sid).engine_setEngine_same
    ((s.openedSlot sid).acceptedEngine true sid len dst)
    (show sid.toNat < s.rd.length by rw [hshape.engines]; exact hs)
  split
  next hle =>
    have hcaught := And.intro (htgt.trans (hiff.mpr hle)) (Eq.refl true)
    exact ⟨if_pos hcaught, (congrArg ReadEngine.phase heng).trans (if_pos hcaught)⟩
  next hgt =>
    have hne : ((s.openedSlot sid).latched true sid len dst).tgt ≠ s.hwPage :=
      fun heq => hgt (hiff.mp (htgt.symm.trans heq))
    have hgo : ¬(((s.openedSlot sid).latched true sid len dst).tgt = (s.openedSlot sid).hwPage ∧
        true = true) := fun h => hne h.1
    refine ⟨if_neg hgo, (congrArg ReadEngine.phase heng).trans (if_neg hgo), ?_⟩
    intro heq
    exact hne ((congrArg ReadEngine.tgt heng).symm.trans (heq.trans (congrArg ReadEngine.hwp heng)))

end Sys2Proof.Machine
end

section
/-! SUPPORT. The steps of a read engine forwards, one lemma a phase, and what each leaves
(43_session_commands.md R188 to R194). -/

namespace Sys2Proof.Machine

open Sys2Proof

/-! ### Where a chunk lies -/

/-- The address of the first byte of the chunk a read engine is on (43_session_commands.md R189). -/
def State.chunkBase (s : State) (i : Nat) : Nat :=
  (s.page (s.engine i).tgt.toNat).toNat + (s.session i).pos.toNat % s.params.pageSize

/-- The chunk of slot `i` lies inside a page of the ring, below the end of PHYS
(42_ring_arithmetic.md R165; 20_memory.md R64). -/
structure ChunkInPage (s : State) (i : Nat) : Prop where
  slot : i < s.params.nsess
  shape : ShapeInv s
  target : (s.engine i).tgt.toNat < s.params.pageCount
  page_le : (s.page (s.engine i).tgt.toNat).toNat + s.params.pageSize ≤ 2 ^ 32
  fits : (s.session i).pos.toNat % s.params.pageSize + (s.engine i).clen ≤ s.params.pageSize

/-- The target page is a page of the table. -/
theorem ChunkInPage.page_getElem? {s : State} {i : Nat} (h : ChunkInPage s i) :
    s.pageAddr[(s.engine i).tgt.toNat]? = some (s.page (s.engine i).tgt.toNat) := by
  have hlt : (s.engine i).tgt.toNat < s.pageAddr.length := by rw [h.shape.pages]; exact h.target
  rw [State.page, List.getD_eq_getElem _ _ hlt, List.getElem?_eq_getElem hlt]

theorem ChunkInPage.chunkAddr {s : State} {i : Nat} (h : ChunkInPage s i) (k : Nat) :
    s.chunkAddr i k = some (s.chunkBase i + k) := by
  rw [State.chunkAddr, h.page_getElem?]; rfl

/-- Every byte of the chunk is a byte of the ring. -/
theorem ChunkInPage.inRing {s : State} {i k : Nat} (h : ChunkInPage s i)
    (hk : k < (s.engine i).clen) : s.inRing (s.chunkBase i + k) = true := by
  have hpage := h.page_le
  have hfits := h.fits
  rw [State.inRing, State.chunkBase, Bool.and_eq_true, List.any_eq_true]
  exact ⟨decide_eq_true (by omega), _, List.mem_of_getElem? h.page_getElem?,
    decide_eq_true ⟨by omega, by omega⟩⟩

/-! ### One step of an engine, by its phase -/

section

variable {s : State} {i : Nat}

theorem engineStep_loop (hi : i < s.params.nsess) (hp : (s.engine i).phase = .loop) :
    engineStep i s = .next (loopStep i s) := by
  simp only [engineStep, if_neg (Nat.not_le.mpr hi), hp]

theorem engineStep_poll (hi : i < s.params.nsess) (hp : (s.engine i).phase = .poll) :
    engineStep i s = .next (pollStep i s) := by
  simp only [engineStep, if_neg (Nat.not_le.mpr hi), hp]

/-- Before the end of the chunk a `CREAD` step stages a byte (43_session_commands.md R189). -/
theorem engineStep_stage (h : ChunkInPage s i) (hp : (s.engine i).phase = .cread)
    (hk : (s.engine i).cidx < (s.engine i).clen) :
    engineStep i s = .next (s.setEngine i { s.engine i with
      cb := (s.engine i).cb.set (s.engine i).cidx (s.physByte (s.chunkBase i + (s.engine i).cidx))
      cidx := (s.engine i).cidx + 1 }) := by
  simp only [engineStep, if_neg (Nat.not_le.mpr h.slot), hp, creadStep, if_pos hk, h.chunkAddr,
    if_pos (h.inRing hk)]

/-- At the end of the chunk a `CREAD` step goes on to the delivery. -/
theorem engineStep_staged (hi : i < s.params.nsess) (hp : (s.engine i).phase = .cread)
    (hk : ¬(s.engine i).cidx < (s.engine i).clen) :
    engineStep i s = .next (s.setEngine i { s.engine i with phase := .cdeliver }) := by
  simp only [engineStep, if_neg (Nat.not_le.mpr hi), hp, creadStep, if_neg hk]

/-- An admitted `CDELIVER` step delivers the chunk (43_session_commands.md R190). -/
theorem engineStep_deliver (hi : i < s.params.nsess) (hp : (s.engine i).phase = .cdeliver)
    (ha : s.admits (s.engine i).dptr.toNat (s.engine i).clen = true) :
    engineStep i s = .next ((s.dstDeliver (s.engine i).dptr.toNat (chunkBytes (s.engine i))).setEngine i
      { s.engine i with cidx := 0, phase := .czero }) := by
  simp only [engineStep, if_neg (Nat.not_le.mpr hi), hp, cdeliverStep, if_pos ha]

/-- Before the end of the chunk a `CZERO` step clears a byte (43_session_commands.md R191). -/
theorem engineStep_zero (h : ChunkInPage s i) (hp : (s.engine i).phase = .czero)
    (hk : (s.engine i).cidx < (s.engine i).clen) :
    engineStep i s = .next ((s.physWrite (s.chunkBase i + (s.engine i).cidx) 0).setEngine i
      { s.engine i with cidx := (s.engine i).cidx + 1 }) := by
  simp only [engineStep, if_neg (Nat.not_le.mpr h.slot), hp, czeroStep, if_pos hk, h.chunkAddr,
    if_pos (h.inRing hk)]

/-- At the end of the chunk a `CZERO` step commits it (43_session_commands.md R192). -/
theorem engineStep_commit (hi : i < s.params.nsess) (hp : (s.engine i).phase = .czero)
    (hk : ¬(s.engine i).cidx < (s.engine i).clen) :
    engineStep i s = .next (commitStep i s) := by
  simp only [engineStep, if_neg (Nat.not_le.mpr hi), hp, czeroStep, if_neg hk]

/-! ### The decision of `LOOP` -/

/-- A satisfied request, or a caught-up non-blocking call, is answered. -/
theorem loopStep_answered
    (h : (s.engine i).rem = 0 ∨ (s.engine i).tgt = (s.engine i).hwp ∧ (s.engine i).nb = true) :
    loopStep i s = finishRead i s := by
  unfold loopStep
  split
  · rfl
  next hrem =>
    obtain ⟨htgt, hnb⟩ := h.resolve_left hrem
    rw [if_neg (not_not_intro htgt), if_pos hnb]

/-- A readable target page starts a chunk. -/
theorem loopStep_readable (hrem : (s.engine i).rem ≠ 0) (htgt : (s.engine i).tgt ≠ (s.engine i).hwp) :
    loopStep i s = s.setEngine i { s.engine i with
      clen := chunkLen s.params (s.session i).pos.toNat (s.engine i).rem.toNat
      cidx := 0
      phase := .cread } := by
  rw [loopStep, if_neg hrem, if_pos htgt]

/-- A caught-up blocking call polls. -/
theorem loopStep_caughtUp (hrem : (s.engine i).rem ≠ 0) (htgt : (s.engine i).tgt = (s.engine i).hwp)
    (hnb : (s.engine i).nb ≠ true) :
    loopStep i s = s.setEngine i { s.engine i with phase := .poll } := by
  rw [loopStep, if_neg hrem, if_neg (not_not_intro htgt), if_neg hnb]

end

/-- Settles O24. -/
theorem loopStepDecides : Obligations.LoopStepDecides := by
  intro s i hev hi hp
  have hstep : step s = .next (loopStep i s.consumed) :=
    (step_engine hev).trans (engineStep_loop (s := s.consumed) hi hp)
  rw [hstep]
  split
  next hans => exact congrArg _ (loopStep_answered (s := s.consumed) hans)
  next hgo =>
    have hrem : (s.engine i).rem ≠ 0 := fun h0 => hgo (.inl h0)
    split
    next htgt => exact congrArg _ (loopStep_readable (s := s.consumed) hrem htgt)
    next htgt =>
      have heq := not_not.mp htgt
      exact congrArg _ (loopStep_caughtUp (s := s.consumed) hrem heq fun hnb => hgo (.inr ⟨heq, hnb⟩))

/-- Settles O25. -/
theorem pollSamplesTheCounter : Obligations.PollSamplesTheCounter := by
  intro s i hshape hev hi hp
  refine ⟨pollStep i s.consumed, s.hwPage,
    (step_engine hev).trans (engineStep_poll (s := s.consumed) hi hp),
    State.hwPage_toNat hshape.sizes, ?_, fun j hj => ?_, rfl, sameMemory_of_eq rfl rfl⟩
  · exact s.consumed.engine_setEngine_same _ (show i < s.rd.length by rw [hshape.engines]; exact hi)
  · exact s.consumed.engine_setEngine_ne _ hj

/-! ### Staging, delivery, zeroing -/

/-- Settles O26, by whether the chunk is staged. -/
theorem stagingStepReadsOneByte : Obligations.StagingStepReadsOneByte := by
  intro s i hshape hev hi hp htgt hpage hfits
  have hchunk : ChunkInPage s.consumed i := ⟨hi, hshape.congr rfl rfl rfl rfl, htgt, hpage, hfits⟩
  rw [step_engine hev]
  split
  next hk => exact engineStep_stage hchunk hp hk
  next hk => exact engineStep_staged (s := s.consumed) hi hp hk

@[simp] theorem chunkBytes_length (e : ReadEngine) : (chunkBytes e).length = e.clen := by
  simp [chunkBytes]

/-- Settles O27. -/
theorem deliveryWritesTheWholeChunk : Obligations.DeliveryWritesTheWholeChunk := by
  intro s i _ hev hi hp ha
  refine ⟨_, (step_engine hev).trans (engineStep_deliver (s := s.consumed) hi hp ha),
    fun k hk => ?_, fun a hout => ?_, rfl⟩
  · have hlen : k < (chunkBytes (s.engine i)).length := by rw [chunkBytes_length]; exact hk
    refine (s.dst.read_writeBytes_at _ k _ hlen).trans ?_
    simp [chunkBytes]
  · refine s.dst.read_writeBytes_out (s.engine i).dptr.toNat a (chunkBytes (s.engine i)) ?_
    rw [chunkBytes_length]; omega

/-- Settles O28. -/
theorem zeroStepClearsOneByte : Obligations.ZeroStepClearsOneByte := by
  intro s i hshape hev hi hp htgt hpage hfits hk
  have hchunk : ChunkInPage s.consumed i := ⟨hi, hshape.congr rfl rfl rfl rfl, htgt, hpage, hfits⟩
  exact ⟨_, (step_engine hev).trans (engineStep_zero hchunk hp hk),
    fun a => s.consumed.physByte_physWrite _ a 0, rfl⟩

/-! ### The commit -/

section

variable {p : Params} {v : Session} {e : ReadEngine}

/-- A chunk is part of what is requested. -/
theorem BusyFits.clen_le_rem (h : BusyFits p v e) (hp : e.phase.inChunk = true) :
    e.clen ≤ e.rem.toNat := by
  obtain ⟨-, -, hclen⟩ := h.chunk hp
  exact hclen ▸ Nat.min_le_right _ _

theorem BusyFits.pos_add_clen (h : BusyFits p v e) (hp : e.phase.inChunk = true) :
    (v.pos + BitVec.ofNat 64 e.clen).toNat = v.pos.toNat + e.clen := by
  have hle := h.clen_le_rem hp
  have hroom := h.pos_room
  rw [BitVec.toNat_add, BitVec.toNat_ofNat]; omega

theorem BusyFits.rem_eq_add_clen (h : BusyFits p v e) (hp : e.phase.inChunk = true) :
    e.rem.toNat = (e.rem - BitVec.ofNat 32 e.clen).toNat + e.clen := by
  have hle := h.clen_le_rem hp
  have hlt := e.rem.isLt
  rw [BitVec.toNat_sub, BitVec.toNat_ofNat]; omega

theorem BusyFits.rv_add_clen (h : BusyFits p v e) (hp : e.phase.inChunk = true) :
    (e.rv + BitVec.ofNat 32 e.clen).toNat = e.rv.toNat + e.clen := by
  have hle := h.clen_le_rem hp
  have hroom := h.count_room
  rw [BitVec.toNat_add, BitVec.toNat_ofNat]; omega

theorem BusyFits.dptr_add_clen_le (h : BusyFits p v e) (hp : e.phase.inChunk = true) :
    e.dptr.toNat + e.clen ≤ 2 ^ 64 := by
  have hle := h.clen_le_rem hp
  have hroom := h.dst_room
  omega

/-- A chunk that ends where DST ends is the last one. -/
theorem BusyFits.rem_eq_zero_of_dst_end (h : BusyFits p v e) (hp : e.phase.inChunk = true)
    (hend : e.dptr.toNat + e.clen = 2 ^ 64) : e.rem - BitVec.ofNat 32 e.clen = 0 := by
  have hrem := h.rem_eq_add_clen hp
  have hroom := h.dst_room
  exact BitVec.eq_of_toNat_eq (show (e.rem - BitVec.ofNat 32 e.clen).toNat = 0 by omega)

end

theorem dptr_add_toNat (d : Long) (n : Nat) :
    (d + BitVec.ofNat 64 n).toNat = (d.toNat + n) % 2 ^ 64 := by
  rw [BitVec.toNat_add, BitVec.toNat_ofNat, Nat.add_mod_mod]

/-- A commit writes its own slot only. -/
theorem commitStep_slots {s : State} {i : Nat} (h : ShapeInv s) (hi : i < s.params.nsess) :
    (commitStep i s).session i =
        { s.session i with pos := (s.session i).pos + BitVec.ofNat 64 (s.engine i).clen } ∧
      (commitStep i s).engine i = committedEngine i s ∧
      ∀ j, j ≠ i → (commitStep i s).session j = s.session j ∧
        (commitStep i s).engine j = s.engine j :=
  ⟨s.session_setSession_same _ (by rw [h.sessions]; exact hi),
    State.engine_setEngine_same _ _ (show i < s.rd.length by rw [h.engines]; exact hi),
    fun _ hj => ⟨s.session_setSession_ne _ hj, State.engine_setEngine_ne _ _ hj⟩⟩

/-- Settles O30: the invariant gives every sum its room. -/
theorem commitAdvancesByTheChunk : Obligations.CommitAdvancesByTheChunk := by
  intro s i hinv hev hi hp hk
  have hbusy := busyInv_iff.mp ((hinv.slots i hi).busy (by rw [hp]; nofun))
  have hchunk : (s.engine i).phase.inChunk = true := by rw [hp]; rfl
  obtain ⟨hsess, heng, hother⟩ := commitStep_slots hinv.consumed.shape hi
  exact ⟨commitStep i s.consumed, _, _, _, _, _,
    (step_engine hev).trans (engineStep_commit (s := s.consumed) hi hp (Nat.not_lt.mpr hk.ge)),
    hbusy.pos_add_clen hchunk, hbusy.rem_eq_add_clen hchunk, hbusy.dptr_add_clen_le hchunk,
    dptr_add_toNat _ _, hbusy.rem_eq_zero_of_dst_end hchunk, hbusy.rv_add_clen hchunk,
    targetPage_toNat hinv.shape.sizes _ _, hsess, heng, hother, rfl, sameMemory_of_eq rfl rfl⟩

end Sys2Proof.Machine
end

section
/-! SUPPORT. Runs of one read engine with no other agent between: the round trip of a chunk and the
waiting of a caught-up blocking call (43_session_commands.md R196 to R199). -/

namespace Sys2Proof.Machine

open Sys2Proof

/-! ### Runs along a trajectory -/

/-- A run that first reaches `t` goes on from there. -/
theorem core_run_add {m : Nat} {s t : State} (h : core.run m s = .next t) (n : Nat) :
    core.run (m + n) s = core.run n t := by
  induction m generalizing s with
  | zero =>
    obtain rfl := Host.Outcome.next.inj ((core_run_zero s).symm.trans h)
    rw [Nat.zero_add]
  | succ m ih =>
    cases hstep : step s with
    | next u =>
      rw [core_run_succ hstep] at h
      rw [Nat.add_right_comm, core_run_succ hstep, ih h]
    | fault r => nomatch r
    | refused r =>
      have hrun := Host.Core.run.eq_2 core s m
      rw [show core.step s = .refused r from hstep, h] at hrun
      cases hrun

/-- A run whose last step is known. -/
theorem core_run_snoc {n : Nat} {s t u : State} (h : core.run n s = .next t) (hs : step t = .next u) :
    core.run (n + 1) s = .next u := by
  rw [core_run_add h, core_run_succ hs, core_run_zero]

/-- The run along a sequence of states, each one step after the one before. -/
theorem core_run_of_steps {f : Nat → State} {n : Nat}
    (h : ∀ k, k < n → step (f k) = .next (f (k + 1))) : core.run n (f 0) = .next (f n) := by
  induction n with
  | zero => exact core_run_zero _
  | succ n ih => exact core_run_snoc (ih fun k hk => h k (by omega)) (h n (by omega))

/-- `n` turns taken with nothing done. -/
def State.passed (s : State) (n : Nat) : State :=
  { s with schedule := s.schedule.drop n, turn := s.turn + n }

theorem State.passed_zero (s : State) : s.passed 0 = s := rfl

theorem State.passed_consumed (s : State) (n : Nat) : (s.passed n).consumed = s.passed (n + 1) := by
  simp only [State.passed, State.consumed, List.tail_drop, Nat.add_assoc]

theorem State.passed_passed (s : State) (m n : Nat) : (s.passed m).passed n = s.passed (m + n) := by
  simp only [State.passed, List.drop_drop, Nat.add_assoc]

/-- The next `n` events are turns of the read engine of slot `i`. -/
def State.engineNext (s : State) (i n : Nat) : Prop := ∀ k, k < n → s.schedule[k]? = some (.engine i)

/-- After `k` of its turns the engine is still next. -/
theorem State.engineNext.nextEvent {s t : State} {i n k : Nat} (h : s.engineNext i n) (hk : k < n)
    (ht : t.schedule = s.schedule.drop k) : t.nextEvent = .engine i := by
  rw [State.nextEvent, ht, List.head?_drop, h k hk]; rfl

theorem State.engineNext.drop {s t : State} {i m n : Nat} (h : s.engineNext i (m + n))
    (ht : t.schedule = s.schedule.drop m) : t.engineNext i n := by
  intro k hk
  rw [ht, List.getElem?_drop]
  exact h (m + k) (by omega)

theorem State.engineNext_of_schedule {s : State} {i n : Nat} {rest : List Event}
    (h : s.schedule = List.replicate n (.engine i) ++ rest) : s.engineNext i n := by
  intro k hk
  rw [h, List.getElem?_append_left (by simpa using hk)]
  simp [hk]

/-! ### Staging a chunk -/

/-- The engine with `n` bytes of its chunk staged (43_session_commands.md R189). -/
def State.stagedEngine (s : State) (i n : Nat) : ReadEngine :=
  { s.engine i with
    cb := s.physBytes (s.chunkBase i) n ++ (s.engine i).cb.drop n
    cidx := n }

/-- The state after `n` staging turns. -/
def State.staging (s : State) (i n : Nat) : State :=
  (s.passed n).setEngine i (s.stagedEngine i n)

theorem State.staging_consumed (s : State) (i n : Nat) :
    (s.staging i n).consumed = (s.passed (n + 1)).setEngine i (s.stagedEngine i n) :=
  congrArg (State.setEngine · i (s.stagedEngine i n)) (s.passed_consumed n)

@[simp] theorem State.physBytes_length (s : State) (a n : Nat) : (s.physBytes a n).length = n := by
  simp [State.physBytes]

theorem State.setEngine_setEngine (s : State) (i : Nat) (e e' : ReadEngine) :
    (s.setEngine i e).setEngine i e' = s.setEngine i e' := by
  simp only [State.setEngine, List.set_set]

theorem ReadEngine.with_cidx_zero {e : ReadEngine} (h : e.cidx = 0) : { e with cidx := 0 } = e := by
  rw [← h]

theorem State.physWrite_setEngine (s : State) (i a : Nat) (e : ReadEngine) (v : Byte) :
    (s.setEngine i e).physWrite a v = (s.physWrite a v).setEngine i e := rfl

theorem State.setEngine_engine (s : State) (i : Nat) : s.setEngine i (s.engine i) = s := by
  rw [State.setEngine, State.engine, set_getD_self]

theorem State.staging_zero {s : State} {i : Nat} (h : (s.engine i).cidx = 0) : s.staging i 0 = s := by
  have heng : s.stagedEngine i 0 = s.engine i := ReadEngine.with_cidx_zero h
  rw [State.staging, heng, State.passed_zero, State.setEngine_engine]

/-- Writing the element that follows what is written already. -/
theorem set_append_drop {α : Type} {xs ys : List α} {n : Nat} (hx : xs.length = n)
    (hy : n < ys.length) (v : α) :
    (xs ++ ys.drop n).set n v = xs ++ [v] ++ ys.drop (n + 1) := by
  rw [List.set_append_right _ _ hx.le, hx, Nat.sub_self, List.drop_eq_getElem_cons hy,
    List.set_cons_zero, List.append_assoc, List.singleton_append]

/-- The engine after one staging step more. -/
theorem State.stagedEngine_succ {s : State} {i n : Nat} (h : n < (s.engine i).cb.length) :
    s.stagedEngine i (n + 1) = { s.stagedEngine i n with
      cb := (s.stagedEngine i n).cb.set n (s.physByte (s.chunkBase i + n)), cidx := n + 1 } := by
  have hcb := set_append_drop (s.physBytes_length (s.chunkBase i) n) h
    (s.physByte (s.chunkBase i + n))
  simp only [State.stagedEngine, hcb, State.physBytes_add]
  rfl

/-- The engine written to the slot of a chunk is the slot's engine. -/
theorem ChunkInPage.engine_setEngine {s t : State} {i : Nat} (h : ChunkInPage s i)
    (hr : t.rd = s.rd) (e : ReadEngine) : (t.setEngine i e).engine i = e :=
  t.engine_setEngine_same e (by rw [hr, h.shape.engines]; exact h.slot)

/-- A chunk stays where it is while its engine keeps target and length and the rest of the state keeps
the sizes, the table and the sessions. -/
theorem ChunkInPage.setEngine {s t : State} {i : Nat} {e : ReadEngine} (h : ChunkInPage s i)
    (hp : t.params = s.params) (ha : t.pageAddr = s.pageAddr) (hs : t.sess = s.sess) (hr : t.rd = s.rd)
    (htgt : e.tgt = (s.engine i).tgt) (hclen : e.clen = (s.engine i).clen) :
    ChunkInPage (t.setEngine i e) i ∧ (t.setEngine i e).chunkBase i = s.chunkBase i := by
  have heng := h.engine_setEngine hr e
  have hpos : ((t.setEngine i e).session i).pos = (s.session i).pos :=
    congrArg Session.pos (State.session_congr hs i)
  have hpage : (t.setEngine i e).page e.tgt.toNat = s.page (s.engine i).tgt.toNat := by
    rw [htgt, State.page, State.setEngine_pageAddr, ha, State.page]
  refine ⟨⟨?_, h.shape.congr hp ?_ ?_ ?_, ?_, ?_, ?_⟩, ?_⟩
  · rw [State.setEngine_params, hp]; exact h.slot
  · rw [State.setEngine_pageAddr, ha]
  · rw [State.setEngine_sess, hs]
  · rw [State.setEngine_rd, List.length_set, hr]
  · rw [heng, htgt, State.setEngine_params, hp]; exact h.target
  · rw [heng, hpage, State.setEngine_params, hp]; exact h.page_le
  · rw [heng, hpos, hclen, State.setEngine_params, hp]; exact h.fits
  · rw [State.chunkBase, heng, hpage, hpos, State.setEngine_params, hp]; rfl

/-- One staging turn of the chunk (43_session_commands.md R189). -/
theorem step_staging {s : State} {i n : Nat} (h : ChunkInPage s i)
    (hp : (s.engine i).phase = .cread) (hcb : (s.engine i).clen ≤ (s.engine i).cb.length)
    (hev : s.engineNext i (s.engine i).clen) (hn : n < (s.engine i).clen) :
    step (s.staging i n) = .next (s.staging i (n + 1)) := by
  have heng := h.engine_setEngine (t := s.passed (n + 1)) rfl (s.stagedEngine i n)
  obtain ⟨hchunk, hbase⟩ :=
    h.setEngine (t := s.passed (n + 1)) (e := s.stagedEngine i n) rfl rfl rfl rfl rfl rfl
  rw [step_engine (hev.nextEvent hn rfl), State.staging_consumed,
    engineStep_stage hchunk (by rw [heng]; exact hp) (by rw [heng]; exact hn), heng, hbase,
    State.setEngine_setEngine, State.staging, State.stagedEngine_succ (by omega)]
  rfl

/-! ### Zeroing a chunk -/

/-- `k` turns taken and the first `n` bytes of the chunk cleared. -/
def State.cleared (s : State) (i k n : Nat) : State :=
  (s.passed k).physWriteBytes (s.chunkBase i) (List.replicate n 0)

@[simp] theorem State.cleared_rd (s : State) (i k n : Nat) : (s.cleared i k n).rd = s.rd := rfl

/-- The state after `n` zeroing turns (43_session_commands.md R191). -/
def State.zeroing (s : State) (i n : Nat) : State :=
  (s.cleared i n n).setEngine i { s.engine i with cidx := n }

theorem State.zeroing_consumed (s : State) (i n : Nat) :
    (s.zeroing i n).consumed = (s.cleared i (n + 1) n).setEngine i { s.engine i with cidx := n } :=
  congrArg (fun t : State => (t.physWriteBytes (s.chunkBase i) (List.replicate n 0)).setEngine i
    { s.engine i with cidx := n }) (s.passed_consumed n)

theorem State.zeroing_zero {s : State} {i : Nat} (h : (s.engine i).cidx = 0) : s.zeroing i 0 = s := by
  rw [State.zeroing, ReadEngine.with_cidx_zero h]
  exact s.setEngine_engine i

/-- Consecutive writes in two runs. -/
theorem Memory.writeBytes_append (m : Memory) (a : Nat) (xs ys : List Byte) :
    m.writeBytes a (xs ++ ys) = (m.writeBytes a xs).writeBytes (a + xs.length) ys := by
  induction xs generalizing m a with
  | nil => rfl
  | cons x xs ih =>
    rw [List.cons_append, Memory.writeBytes, Memory.writeBytes, ih, List.length_cons, Nat.add_assoc,
      Nat.add_comm 1]

/-- Clearing one byte more. -/
theorem State.cleared_physWrite (s : State) (i k n : Nat) :
    (s.cleared i k n).physWrite (s.chunkBase i + n) 0 = s.cleared i k (n + 1) := by
  have hphys : (s.phys.writeBytes (s.chunkBase i) (List.replicate n 0)).write (s.chunkBase i + n) 0 =
      s.phys.writeBytes (s.chunkBase i) (List.replicate (n + 1) 0) := by
    rw [List.replicate_succ', Memory.writeBytes_append, List.length_replicate]; rfl
  exact congrArg (fun m => { s.passed k with phys := m }) hphys

/-- One zeroing turn of the chunk (43_session_commands.md R191). -/
theorem step_zeroing {s : State} {i n : Nat} (h : ChunkInPage s i)
    (hp : (s.engine i).phase = .czero) (hev : s.engineNext i (s.engine i).clen)
    (hn : n < (s.engine i).clen) : step (s.zeroing i n) = .next (s.zeroing i (n + 1)) := by
  have heng := h.engine_setEngine (t := s.cleared i (n + 1) n) rfl { s.engine i with cidx := n }
  obtain ⟨hchunk, hbase⟩ := h.setEngine (t := s.cleared i (n + 1) n)
    (e := { s.engine i with cidx := n }) rfl rfl rfl rfl rfl rfl
  rw [step_engine (hev.nextEvent hn rfl), State.zeroing_consumed,
    engineStep_zero hchunk (by rw [heng]; exact hp) (by rw [heng]; exact hn), heng, hbase,
    State.physWrite_setEngine, State.setEngine_setEngine, State.zeroing, ← State.cleared_physWrite]

/-! ### The round trip of a chunk -/

/-- The state after the staging and the delivery of a chunk (43_session_commands.md R189, R190). -/
def State.delivered (s : State) (i : Nat) : State :=
  ((s.passed ((s.engine i).clen + 2)).dstDeliver (s.engine i).dptr.toNat
      (s.physBytes (s.chunkBase i) (s.engine i).clen)).setEngine i
    { s.stagedEngine i (s.engine i).clen with cidx := 0, phase := .czero }

/-- A staged chunk is the chunk of the ring, bit for bit. -/
theorem chunkBytes_stagedEngine (s : State) (i : Nat) :
    chunkBytes (s.stagedEngine i (s.engine i).clen) =
      s.physBytes (s.chunkBase i) (s.engine i).clen := by
  refine List.map_congr_left fun k hk => ?_
  have hlt := List.mem_range.mp hk
  have hlen : k < (s.physBytes (s.chunkBase i) (s.engine i).clen).length := by
    rw [State.physBytes_length]; exact hlt
  rw [State.stagedEngine, List.getD_append _ _ _ _ hlen, List.getD_eq_getElem _ _ hlen]
  simp [State.physBytes]

/-- The engine with the whole chunk staged, before its delivery. -/
def State.readyEngine (s : State) (i : Nat) : ReadEngine :=
  { s.stagedEngine i (s.engine i).clen with phase := .cdeliver }

/-- The `CREAD` step after the last byte goes on to the delivery without an access
(43_session_commands.md R189). -/
theorem step_staging_last {s : State} {i n : Nat} (h : ChunkInPage s i)
    (hp : (s.engine i).phase = .cread) (hev : s.engineNext i n) (hn : (s.engine i).clen < n) :
    step (s.staging i (s.engine i).clen) =
      .next ((s.passed ((s.engine i).clen + 1)).setEngine i (s.readyEngine i)) := by
  have heng := h.engine_setEngine (t := s.passed ((s.engine i).clen + 1)) rfl
    (s.stagedEngine i (s.engine i).clen)
  obtain ⟨hchunk, -⟩ := h.setEngine (t := s.passed ((s.engine i).clen + 1))
    (e := s.stagedEngine i (s.engine i).clen) rfl rfl rfl rfl rfl rfl
  rw [step_engine (hev.nextEvent hn rfl), State.staging_consumed,
    engineStep_staged hchunk.slot (by rw [heng]; exact hp) (by rw [heng]; exact lt_irrefl _), heng,
    State.setEngine_setEngine, State.readyEngine]

/-- The admitted delivery of a staged chunk (43_session_commands.md R190). -/
theorem step_delivered {s : State} {i n : Nat} (h : ChunkInPage s i)
    (ha : s.admits (s.engine i).dptr.toNat (s.engine i).clen = true)
    (hev : s.engineNext i n) (hn : (s.engine i).clen + 1 < n) :
    step ((s.passed ((s.engine i).clen + 1)).setEngine i (s.readyEngine i)) =
      .next (s.delivered i) := by
  have hcons : ((s.passed ((s.engine i).clen + 1)).setEngine i (s.readyEngine i)).consumed =
      (s.passed ((s.engine i).clen + 2)).setEngine i (s.readyEngine i) :=
    congrArg (State.setEngine · i (s.readyEngine i)) (s.passed_consumed _)
  have heng := h.engine_setEngine (t := s.passed ((s.engine i).clen + 2)) rfl (s.readyEngine i)
  have hbytes : chunkBytes (s.readyEngine i) = s.physBytes (s.chunkBase i) (s.engine i).clen :=
    chunkBytes_stagedEngine s i
  obtain ⟨hchunk, -⟩ := h.setEngine (t := s.passed ((s.engine i).clen + 2)) (e := s.readyEngine i)
    rfl rfl rfl rfl rfl rfl
  rw [step_engine (hev.nextEvent hn rfl), hcons,
    engineStep_deliver hchunk.slot (by rw [heng]; rfl) (by rw [heng]; exact ha), heng, hbytes]
  exact congrArg _ (State.setEngine_setEngine
    ((s.passed ((s.engine i).clen + 2)).dstDeliver (s.engine i).dptr.toNat
      (s.physBytes (s.chunkBase i) (s.engine i).clen)) i _ _)

/-- From the first staging turn to the delivery: `CLEN` bytes are staged, the engine goes on, and the
caller receives the chunk (43_session_commands.md R189, R190). -/
theorem core_run_delivered {s : State} {i : Nat} (h : ChunkInPage s i)
    (hp : (s.engine i).phase = .cread) (hcidx : (s.engine i).cidx = 0)
    (hcb : (s.engine i).clen ≤ (s.engine i).cb.length)
    (ha : s.admits (s.engine i).dptr.toNat (s.engine i).clen = true)
    (hev : s.engineNext i ((s.engine i).clen + 2)) :
    core.run ((s.engine i).clen + 2) s = .next (s.delivered i) := by
  have hstage : core.run (s.engine i).clen (s.staging i 0) = .next (s.staging i (s.engine i).clen) :=
    core_run_of_steps (f := s.staging i) fun n hn =>
      step_staging h hp hcb (fun k hk => hev k (by omega)) hn
  rw [State.staging_zero hcidx] at hstage
  exact core_run_snoc (core_run_snoc hstage (step_staging_last h hp hev (by omega)))
    (step_delivered h ha hev (by omega))

/-- From the first zeroing turn to the commit (43_session_commands.md R191, R192). -/
theorem core_run_committed {s : State} {i : Nat} (h : ChunkInPage s i)
    (hp : (s.engine i).phase = .czero) (hcidx : (s.engine i).cidx = 0)
    (hev : s.engineNext i ((s.engine i).clen + 1)) :
    core.run ((s.engine i).clen + 1) s =
      .next (commitStep i (s.zeroing i (s.engine i).clen).consumed) := by
  have hzero : core.run (s.engine i).clen (s.zeroing i 0) = .next (s.zeroing i (s.engine i).clen) :=
    core_run_of_steps (f := s.zeroing i) fun n hn =>
      step_zeroing h hp (fun k hk => hev k (by omega)) hn
  rw [State.zeroing_zero hcidx] at hzero
  have heng := h.engine_setEngine (t := s.cleared i ((s.engine i).clen + 1) (s.engine i).clen) rfl
    { s.engine i with cidx := (s.engine i).clen }
  obtain ⟨hchunk, -⟩ := h.setEngine (t := s.cleared i ((s.engine i).clen + 1) (s.engine i).clen)
    (e := { s.engine i with cidx := (s.engine i).clen }) rfl rfl rfl rfl rfl rfl
  have hstep : step (s.zeroing i (s.engine i).clen) =
      .next (commitStep i (s.zeroing i (s.engine i).clen).consumed) := by
    rw [step_engine (hev.nextEvent (Nat.lt_succ_self _) rfl), State.zeroing_consumed,
      engineStep_commit hchunk.slot (by rw [heng]; exact hp) (by rw [heng]; exact lt_irrefl _)]
  exact core_run_snoc hzero hstep

/-- The state the round trip of a chunk leaves (43_session_commands.md R189 to R192). -/
def State.copied (s : State) (i : Nat) : State :=
  { s with
    phys := s.phys.writeBytes (s.chunkBase i) (List.replicate (s.engine i).clen 0)
    dst := s.dst.writeBytes (s.engine i).dptr.toNat (s.physBytes (s.chunkBase i) (s.engine i).clen)
    sess := s.sess.set i
      { s.session i with pos := (s.session i).pos + BitVec.ofNat 64 (s.engine i).clen }
    rd := s.rd.set i { committedEngine i s with
      cb := (s.stagedEngine i (s.engine i).clen).cb, cidx := (s.engine i).clen }
    schedule := s.schedule.drop (2 * (s.engine i).clen + 3)
    turn := s.turn + (2 * (s.engine i).clen + 3) }

/-- A commit of an engine just written. -/
theorem commitStep_setEngine {s : State} {i : Nat} {e : ReadEngine} (h : (s.setEngine i e).engine i = e) :
    commitStep i (s.setEngine i e) =
      (s.setSession i { s.session i with
        pos := (s.session i).pos + BitVec.ofNat 64 e.clen }).setEngine i
        { e with
          rem := e.rem - BitVec.ofNat 32 e.clen
          dptr := e.dptr + BitVec.ofNat 64 e.clen
          rv := e.rv + BitVec.ofNat 32 e.clen
          tgt := targetPage s.params (s.session i) ((s.session i).pos.toNat + e.clen)
          phase := .loop } := by
  simp only [commitStep, committedEngine, h]
  exact State.setEngine_setEngine (s.setSession i _) i e _

theorem ChunkInPage.engine_delivered {s : State} {i : Nat} (h : ChunkInPage s i) :
    (s.delivered i).engine i =
      { s.stagedEngine i (s.engine i).clen with cidx := 0, phase := .czero } :=
  h.engine_setEngine (t := (s.passed ((s.engine i).clen + 2)).dstDeliver (s.engine i).dptr.toNat
    (s.physBytes (s.chunkBase i) (s.engine i).clen)) rfl _

theorem ChunkInPage.delivered {s : State} {i : Nat} (h : ChunkInPage s i) :
    ChunkInPage (s.delivered i) i ∧ (s.delivered i).chunkBase i = s.chunkBase i :=
  h.setEngine rfl rfl rfl rfl rfl rfl

/-- Zeroing and commit of a delivered chunk leave what the round trip leaves. -/
theorem commitStep_delivered {s : State} {i : Nat} (h : ChunkInPage s i) :
    commitStep i ((s.delivered i).zeroing i (s.engine i).clen).consumed = s.copied i := by
  obtain ⟨hchunk, hbase⟩ := h.delivered
  have hturns : (s.engine i).clen + 2 + ((s.engine i).clen + 1) = 2 * (s.engine i).clen + 3 := by
    omega
  have heng := hchunk.engine_setEngine
    (State.cleared_rd _ i ((s.engine i).clen + 1) (s.engine i).clen)
    { (s.delivered i).engine i with cidx := (s.engine i).clen }
  rw [State.zeroing_consumed, commitStep_setEngine heng, h.engine_delivered, State.cleared, hbase]
  unfold State.delivered State.copied
  simp [State.setEngine, State.setSession, State.physWriteBytes, State.passed, State.dstDeliver,
    State.session, committedEngine, State.stagedEngine, hturns, Nat.add_assoc]

/-- The round trip of a chunk: `CLEN` staging turns and the way on, the delivery, `CLEN` zeroing turns
and the commit (43_session_commands.md R198). -/
theorem core_run_copied {s : State} {i : Nat} (h : ChunkInPage s i)
    (hp : (s.engine i).phase = .cread) (hcidx : (s.engine i).cidx = 0)
    (hcb : (s.engine i).clen ≤ (s.engine i).cb.length)
    (ha : s.admits (s.engine i).dptr.toNat (s.engine i).clen = true)
    (hev : s.engineNext i (2 * (s.engine i).clen + 3)) :
    core.run (2 * (s.engine i).clen + 3) s = .next (s.copied i) := by
  have heng := h.engine_delivered
  have hclen : ((s.delivered i).engine i).clen = (s.engine i).clen := by rw [heng]; rfl
  have hturns : 2 * (s.engine i).clen + 3 = (s.engine i).clen + 2 + ((s.engine i).clen + 1) := by omega
  have hfirst := core_run_delivered h hp hcidx hcb ha fun k hk => hev k (by omega)
  have hevZero : (s.delivered i).engineNext i ((s.engine i).clen + 1) :=
    State.engineNext.drop (hturns ▸ hev) rfl
  have hlast := core_run_committed h.delivered.1 (by rw [heng]) (by rw [heng])
    (by rw [hclen]; exact hevZero)
  rw [hclen, commitStep_delivered h] at hlast
  rw [hturns, core_run_add hfirst, hlast]

/-- In the invariant the chunk of a busy engine lies inside a page, if the page lies inside PHYS
(42_ring_arithmetic.md R165). -/
theorem State.Inv.chunkInPage {s : State} {i : Nat} (h : s.Inv) (hi : i < s.params.nsess)
    (hp : (s.engine i).phase.inChunk = true)
    (hpage : (s.page (s.engine i).tgt.toNat).toNat + s.params.pageSize ≤ 2 ^ 32) :
    ChunkInPage s i := by
  obtain ⟨-, hz, -, hpages, -⟩ := h.shape.sizes
  have hbusy := (h.slots i hi).busy fun hidle => by rw [hidle] at hp; cases hp
  obtain ⟨-, -, hclen⟩ := hbusy.chunk hp
  refine ⟨hi, h.shape, ?_, hpage, ?_⟩
  · rw [hbusy.target, targetPage_toNat h.shape.sizes]
    exact pageOf_lt (by omega) _ _
  · rw [hclen]
    exact offsetOf_add_chunkLen_le (by omega) _ _

theorem State.physByte_copied (s : State) (i a : Nat) :
    (s.copied i).physByte a =
      if s.chunkBase i ≤ a ∧ a < s.chunkBase i + (s.engine i).clen then 0 else s.physByte a := by
  unfold State.physByte State.copied
  rw [Memory.read_writeBytes, List.length_replicate]
  split
  · rw [List.getElem?_replicate, if_pos (by omega)]; rfl
  · rfl

theorem State.dstByte_copied_at (s : State) {i k : Nat} (hk : k < (s.engine i).clen) :
    (s.copied i).dstByte ((s.engine i).dptr.toNat + k) = some (s.physByte (s.chunkBase i + k)) := by
  refine (s.dst.read_writeBytes_at _ k _ (by rw [State.physBytes_length]; exact hk)).trans ?_
  simp [State.physBytes]

theorem State.dstByte_copied_out (s : State) {i a : Nat}
    (ha : a < (s.engine i).dptr.toNat ∨ (s.engine i).dptr.toNat + (s.engine i).clen ≤ a) :
    (s.copied i).dstByte a = s.dstByte a :=
  s.dst.read_writeBytes_out _ a _ (by rw [State.physBytes_length]; omega)

theorem ChunkInPage.session_copied {s : State} {i : Nat} (h : ChunkInPage s i) :
    (s.copied i).session i =
      { s.session i with pos := (s.session i).pos + BitVec.ofNat 64 (s.engine i).clen } :=
  s.session_setSession_same _ (by rw [h.shape.sessions]; exact h.slot)

theorem ChunkInPage.engine_copied {s : State} {i : Nat} (h : ChunkInPage s i) :
    (s.copied i).engine i = { committedEngine i s with
      cb := (s.stagedEngine i (s.engine i).clen).cb, cidx := (s.engine i).clen } :=
  s.engine_setEngine_same _ (by rw [h.shape.engines]; exact h.slot)

theorem State.copied_other (s : State) {i j : Nat} (hj : j ≠ i) :
    (s.copied i).session j = s.session j ∧ (s.copied i).engine j = s.engine j :=
  ⟨s.session_setSession_ne _ hj, s.engine_setEngine_ne _ hj⟩

/-- Settles O31: the run ends in the copied chunk, whose counts have the room of the invariant. -/
theorem chunkRoundTrip : Obligations.ChunkRoundTrip := by
  intro s i base rest hinv hi hp hcidx hbase hpage ha hsched
  obtain rfl : base = s.chunkBase i := hbase
  have hin : (s.engine i).phase.inChunk = true := by rw [hp]; rfl
  have hchunk := hinv.chunkInPage hi hin hpage
  have hslot := slotInv_iff.mp (hinv.slots i hi)
  have hbusy := hslot.busy (by rw [hp]; nofun)
  have hcb : (s.engine i).clen ≤ (s.engine i).cb.length := by
    have hfits := hchunk.fits
    rw [hslot.staging]; omega
  have hrest : s.schedule.drop (2 * (s.engine i).clen + 3) = rest := by
    rw [hsched, List.drop_left' List.length_replicate]
  have hrun := core_run_copied hchunk hp hcidx hcb ha (State.engineNext_of_schedule hsched)
  refine ⟨s.copied i, _, _, _, _, _, hrun, fun k hk => ⟨s.dstByte_copied_at hk, ?_⟩,
    fun a hout => ?_, fun a hout => s.dstByte_copied_out hout, hbusy.pos_add_clen hin,
    hbusy.rem_eq_add_clen hin, dptr_add_toNat _ _, hbusy.rv_add_clen hin,
    targetPage_toNat hinv.shape.sizes _ _, hchunk.session_copied, hchunk.engine_copied,
    fun j hj => s.copied_other hj, ?_⟩
  · rw [State.physByte_copied, if_pos (by omega)]
  · rw [State.physByte_copied, if_neg (by omega)]
  · rw [← hrest]; rfl

/-! ### A caught-up blocking call -/

/-- The engine of slot `i` waits: a blocking call whose target page is the one the counter names
(43_session_commands.md R196). -/
structure Waiting (s : State) (i : Nat) : Prop where
  slot : i < s.params.nsess
  engines : i < s.rd.length
  looping : (s.engine i).phase = .loop
  unsatisfied : (s.engine i).rem ≠ 0
  blocking : (s.engine i).nb = false
  caught_up : (s.engine i).tgt = (s.engine i).hwp
  no_news : s.hwPage = (s.engine i).hwp

theorem Waiting.passed {s : State} {i : Nat} (h : Waiting s i) (n : Nat) : Waiting (s.passed n) i :=
  ⟨h.slot, h.engines, h.looping, h.unsatisfied, h.blocking, h.caught_up, h.no_news⟩

/-- The engine of slot `i` is to sample the counter next, `n` turns on. -/
def State.polling (s : State) (i n : Nat) : State :=
  (s.passed n).setEngine i { s.engine i with phase := .poll }

theorem State.polling_consumed (s : State) (i n : Nat) :
    (s.polling i n).consumed = s.polling i (n + 1) :=
  congrArg (State.setEngine · i { s.engine i with phase := .poll }) (s.passed_consumed n)

/-- The `LOOP` step of a waiting engine goes to `POLL` (43_session_commands.md R188). -/
theorem Waiting.step_loop {s : State} {i : Nat} (h : Waiting s i) (hev : s.nextEvent = .engine i) :
    step s = .next (s.polling i 1) := by
  have hnb : (s.engine i).nb ≠ true := by simp [h.blocking]
  rw [step_engine hev, engineStep_loop (s := s.consumed) h.slot h.looping,
    loopStep_caughtUp (s := s.consumed) h.unsatisfied h.caught_up hnb, State.polling,
    ← State.passed_consumed]
  rfl

/-- The `POLL` step of a waiting engine finds the page it knew (43_session_commands.md R194). -/
theorem Waiting.step_poll {s : State} {i : Nat} (h : Waiting s i)
    (hev : (s.polling i 1).nextEvent = .engine i) :
    step (s.polling i 1) = .next (s.passed 2) := by
  have heng : (s.polling i 2).engine i = { s.engine i with phase := .poll } :=
    (s.passed 2).engine_setEngine_same _ h.engines
  have hslot : i < (s.polling i 2).params.nsess := h.slot
  have hback : { s.engine i with hwp := s.hwPage, phase := .loop } = s.engine i := by
    rw [h.no_news, ← h.looping]
  have hpoll : pollStep i (s.polling i 2) =
      (s.passed 2).setEngine i { s.engine i with hwp := s.hwPage, phase := .loop } := by
    rw [pollStep, heng]
    exact State.setEngine_setEngine (s.passed 2) i _ _
  rw [step_engine hev, State.polling_consumed, engineStep_poll hslot (by rw [heng]), hpoll, hback]
  exact congrArg _ ((s.passed 2).setEngine_engine i)

/-- One round of `LOOP` and `POLL` changes nothing. -/
theorem Waiting.core_run_round {s : State} {i : Nat} (h : Waiting s i) (hev : s.engineNext i 2) :
    core.run 2 s = .next (s.passed 2) := by
  have hloop := h.step_loop (hev.nextEvent (k := 0) (by omega) rfl)
  have hpoll := h.step_poll (hev.nextEvent (k := 1) (by omega) rfl)
  rw [core_run_succ hloop, core_run_succ hpoll, core_run_zero]

/-- Any number of rounds changes nothing (43_session_commands.md R196; 70_reset_and_hazards.md R287). -/
theorem Waiting.core_run {s : State} {i n : Nat} (h : Waiting s i) (hev : s.engineNext i (2 * n)) :
    core.run (2 * n) s = .next (s.passed (2 * n)) := by
  induction n with
  | zero => exact core_run_zero s
  | succ n ih =>
    have hround := (h.passed (2 * n)).core_run_round (State.engineNext.drop (m := 2 * n) hev rfl)
    rw [Nat.mul_succ, core_run_add (ih fun k hk => hev k (by omega)), hround, State.passed_passed]

/-- Settles O32. -/
theorem blockingReadSpinsWhileNothingArrives : Obligations.BlockingReadSpinsWhileNothingArrives := by
  intro n s i rest hshape hi hp hrem hnb htgt hhw hsched
  have hwait : Waiting s i := ⟨hi, by rw [hshape.engines]; exact hi, hp, hrem, hnb, htgt, hhw⟩
  have hrest : s.schedule.drop (2 * n) = rest := by
    rw [hsched, List.drop_left' List.length_replicate]
  rw [hwait.core_run (State.engineNext_of_schedule hsched), State.passed, hrest]

end Sys2Proof.Machine
end

section
/-! SUPPORT. The host's register accesses forwards: which register an offset names, what a read returns
and what a write leaves, register by register (44_lifecycle_config.md R221 to R231). -/

namespace Sys2Proof.Machine

open Sys2Proof

/-! ### The step of a register access -/

/-- The `i`-th register of the page table lies at `0x100 + 4 * i` (10_state.md R36). -/
theorem regAt_pageAddr {p : Params} {i : Nat} (hi : i < p.pageCount) :
    regAt p (0x100 + 4 * i) = some (.pageAddr i) := by
  have hindex : (0x100 + 4 * i - 0x100) / 4 = i := by omega
  simp (disch := omega) only [regAt, if_neg, if_pos, hindex, hi, and_true]

/-- A write at the offset of a register follows the write rule of that register (10_state.md R37). -/
theorem step_regWrite {s : State} {off : Nat} {v : Word} {r : Reg} (hev : s.nextEvent = .regWrite off v)
    (hr : regAt s.params off = some r) : step s = writeReg v s.consumed r := by
  simp only [step, hev, takeTurn, regWrite, State.consumed_params, hr]

/-- A read at the offset of a register returns its value and changes no register (10_state.md R37). -/
theorem step_regRead {s : State} {off : Nat} {r : Reg} (hev : s.nextEvent = .regRead off)
    (hr : regAt s.params off = some r) :
    step s = .next { s.consumed with busReads := regValue s r :: s.busReads } := by
  simp only [step, hev, takeTurn, regRead, State.consumed_params, hr]
  cases r <;> rfl

/-! ### `CTRL` -/

theorem writeCtrl_odd {v : Word} (hv : v.toNat % 2 = 1) (s : State) :
    writeCtrl v s = if s.run then .next s else startAction s := by
  unfold writeCtrl
  rw [getLsbD_zero_eq, if_pos (decide_eq_true hv)]

theorem writeCtrl_even {v : Word} (hv : v.toNat % 2 = 0) (s : State) :
    writeCtrl v s = .next { s with run := false } := by
  have hbit : v.getLsbD 0 = false := by rw [getLsbD_zero_eq, hv]; rfl
  unfold writeCtrl
  rw [hbit]
  rfl

/-- The start action of a stopped block goes through on a legal memory map
(44_lifecycle_config.md R221). -/
theorem step_started {s : State} {v : Word} (hev : s.nextEvent = .regWrite 0x00 v)
    (hv : v.toNat % 2 = 1) (hr : s.run = false) (hm : s.mapOk = true) :
    step s = .next s.consumed.started := by
  have hmap : s.consumed.mapOk = true := (State.mapOk_congr rfl rfl rfl).trans hm
  calc step s = writeCtrl v s.consumed := step_regWrite hev rfl
    _ = startAction s.consumed := by
      rw [writeCtrl_odd hv, State.consumed_run, hr, if_neg Bool.false_ne_true]
    _ = .next s.consumed.started := if_pos hmap

/-- Settles O33. -/
theorem startLoadsRpcAndClearsTheCounter : Obligations.StartLoadsRpcAndClearsTheCounter := by
  intro s v hev hv hr hm
  exact ⟨_, step_started hev hv hr hm, setWidth_ptr_toNat _, rfl, fun _ => ⟨rfl, rfl⟩⟩

/-- The start action ends whatever was in flight and counts the `WRITE`s of a program at `PROG_BASE` from
0 (44_lifecycle_config.md R221). -/
theorem BetweenWrites.started (s : State) : BetweenWrites s.consumed.started s.srcIdx 0 where
  inactive := rfl
  rpc := .inl ⟨rfl, setWidth_ptr_toNat _⟩
  source := by rw [Nat.zero_mul]; rfl
  counter := by rw [Nat.zero_div, Nat.zero_mod]; rfl

/-- On a legal map with the image in memory the start action leaves a block that runs the generated
program (44_lifecycle_config.md R221; 70_reset_and_hazards.md R273). -/
theorem Producing.started {s : State} (hsizes : s.params.valid) (hm : s.mapOk = true)
    (he : s.riscErr = false) (himage : s.hasImage) : Producing s.consumed.started s.srcIdx where
  sizes := hsizes
  map := (State.mapOk_congr rfl rfl rfl).trans hm
  image k b hk := himage k b (imageBytes_congr (s := s) rfl rfl rfl ▸ hk)
  no_error := he
  position := .inr ⟨0, .started s⟩

/-- Settles O52: at the address the start action loads stands the `SYNC` of the image. -/
theorem startBeginsTheGeneratedProgram : Obligations.StartBeginsTheGeneratedProgram := by
  intro s v hsizes hm he himage hr hev hv
  have hp : Producing s.consumed.started s.srcIdx := .started hsizes hm he himage
  exact ⟨_, step_started hev hv hr hm, hp, hp.fetch_sync (setWidth_ptr_toNat _)⟩

/-- Settles O34: a write that repeats `CTRL.RUN` is a start of a running block or a stop of a stopped
one. -/
theorem stopClearsRunOnly : Obligations.StopClearsRunOnly := by
  intro s v hev
  have hstep : step s = writeCtrl v s.consumed := step_regWrite hev rfl
  refine ⟨fun hv => hstep.trans (writeCtrl_even hv _), fun hv => hstep.trans ?_⟩
  cases hr : s.run with
  | true =>
    rw [hr, if_pos rfl] at hv
    rw [writeCtrl_odd hv, State.consumed_run, hr, if_pos rfl]
  | false =>
    rw [hr, if_neg Bool.false_ne_true] at hv
    rw [writeCtrl_even hv, ← hr]
    rfl

/-! ### The other registers the host writes -/

/-- A 1 in bit 0 clears `INTSTAT.DRDY` (44_lifecycle_config.md R226). -/
theorem ackDrdy_eq (v : Word) (intstat : Bool) :
    ackDrdy v intstat = (intstat && decide (v.toNat % 2 = 0)) := by
  unfold ackDrdy
  rw [getLsbD_zero_eq]
  obtain h | h := Nat.mod_two_eq_zero_or_one v.toNat <;> simp [h]

/-- `FMT` compares the whole word (44_lifecycle_config.md R228). -/
theorem coerceFmt_eq (v : Word) : coerceFmt v = decide (v.toNat = 1) :=
  decide_eq_decide.mpr BitVec.toNat_inj.symm

/-- Settles O35. -/
theorem interruptAndFormatWrites : Obligations.InterruptAndFormatWrites := by
  intro s v
  refine ⟨fun hev => ?intmsk, fun hev => ?intstat, fun hev => ?fmt⟩
  case intmsk => rw [step_regWrite hev rfl, writeReg, getLsbD_zero_eq]
  case intstat => rw [step_regWrite hev rfl, writeReg, ackDrdy_eq, State.consumed_intstat]
  case fmt => rw [step_regWrite hev rfl, writeReg, coerceFmt_eq]

/-- Settles O36. -/
theorem readOnlyRegistersIgnoreWrites : Obligations.ReadOnlyRegistersIgnoreWrites := by
  intro s off v hoff hev
  obtain rfl | rfl | rfl := hoff
  case inl => exact step_regWrite (r := .status) hev rfl
  case inr.inl => exact step_regWrite (r := .gpcnt) hev rfl
  case inr.inr => exact step_regWrite (r := .bufsz) hev rfl

/-! ### The address registers -/

/-- `PROG_BASE` as a number: its two low bits are 0 (10_state.md R31). -/
theorem State.progBase_toNat (s : State) : s.progBase.toNat = 4 * s.progBaseHi.toNat := by
  rw [State.progBase, toNat_append_add]
  exact Nat.mul_comm _ _

theorem writeProgBase_free {s : State} (hfree : s.live = false) (v : Word) :
    writeProgBase v s = .next { s with progBaseHi := v.extractLsb' 2 30 } :=
  if_neg fun h => absurd h.1 (by rw [hfree]; nofun)

theorem writePageAddr_free {s : State} (hfree : s.live = false) (i : Nat) (v : Word) :
    writePageAddr i v s = .next { s with pageAddr := s.pageAddr.set i v } :=
  if_neg fun h => absurd h.1 (by rw [hfree]; nofun)

/-- Bits [31:2] of a word over two 0 bits are the word rounded down to a multiple of 4. -/
theorem four_mul_extract_high (v : Word) :
    4 * (v.extractLsb' 2 30).toNat = v.toNat - v.toNat % 4 := by
  rw [BitVec.extractLsb'_toNat, Nat.shiftRight_eq_div_pow]
  omega

/-- Settles O37. -/
theorem addressRegisterWrites : Obligations.AddressRegisterWrites := by
  intro s v hshape hfree
  refine ⟨fun hev => ?progBase, fun i hi hev => ?pageAddr⟩
  case progBase =>
    have hstep : step s = .next { s.consumed with progBaseHi := v.extractLsb' 2 30 } :=
      (step_regWrite hev rfl).trans (writeProgBase_free (s := s.consumed) hfree v)
    refine ⟨_, hstep, ?_, rfl, fun _ => ⟨rfl, rfl⟩⟩
    rw [State.progBase_toNat]
    exact four_mul_extract_high v
  case pageAddr =>
    have hstep : step s = .next { s.consumed with pageAddr := s.pageAddr.set i v } :=
      (step_regWrite hev (regAt_pageAddr hi)).trans (writePageAddr_free (s := s.consumed) hfree i v)
    have hlen : i < s.pageAddr.length := hshape.pages.symm ▸ hi
    refine ⟨_, hstep, ?_, fun j hj => ?_, rfl, fun _ => ⟨rfl, rfl⟩⟩
    · simp [State.page, hlen]
    · simp [State.page, List.getElem?_set_ne (Ne.symm hj)]

/-! ### What the registers read as -/

theorem flagWord_toNat (b : Bool) : (flagWord b).toNat = if b then 1 else 0 := by
  cases b <;> rfl

theorem State.statusReg_toNat (s : State) :
    s.statusReg.toNat = (if s.riscErr then 1 else 0) + (if s.pw.active then 2 else 0) := by
  unfold State.statusReg
  cases s.riscErr <;> cases s.pw.active <;> rfl

theorem State.bufsz_toNat (s : State) : s.bufsz.toNat = 1 + (if s.fmt then 1 else 0) := by
  unfold State.bufsz
  cases s.fmt <;> rfl

/-- A read returns the word whose number is the register's. -/
theorem step_regRead_of_toNat {s : State} {off : Nat} {r : Reg} {v : Word}
    (hev : s.nextEvent = .regRead off) (hr : regAt s.params off = some r)
    (hv : v.toNat = (regValue s r).toNat) :
    step s = .next { s.consumed with busReads := v :: s.busReads } := by
  rw [step_regRead hev hr, BitVec.eq_of_toNat_eq hv]

/-- Settles O39, register by register of the map (10_state.md R36). -/
theorem registerReadsReturnTheMap : Obligations.RegisterReadsReturnTheMap := by
  intro s off v hev hval
  obtain ⟨rfl, hv⟩ | ⟨rfl, hv⟩ | ⟨rfl, rfl⟩ | ⟨rfl, hv⟩ | ⟨rfl, hv⟩ | ⟨rfl, hv⟩ | ⟨rfl, hv⟩ |
    ⟨rfl, hv⟩ | ⟨i, hi, rfl, rfl⟩ := hval
  · exact step_regRead_of_toNat (r := .ctrl) hev rfl (hv.trans (flagWord_toNat _).symm)
  · exact step_regRead_of_toNat (r := .status) hev rfl (hv.trans s.statusReg_toNat.symm)
  · exact step_regRead (r := .gpcnt) hev rfl
  · exact step_regRead_of_toNat (r := .intmsk) hev rfl (hv.trans (flagWord_toNat _).symm)
  · exact step_regRead_of_toNat (r := .intstat) hev rfl (hv.trans (flagWord_toNat _).symm)
  · exact step_regRead_of_toNat (r := .fmt) hev rfl (hv.trans (flagWord_toNat _).symm)
  · exact step_regRead_of_toNat (r := .bufsz) hev rfl (hv.trans s.bufsz_toNat.symm)
  · exact step_regRead_of_toNat (r := .progBase) hev rfl (hv.trans s.progBase_toNat.symm)
  · exact step_regRead (r := .pageAddr i) hev (regAt_pageAddr hi)

end Sys2Proof.Machine
end

section
/-! SUPPORT. The two exceptions: the fetch word by word and the causes of `RiscError`
(60_exceptions.md R243), and the delivery the caller's buffer turns down (R241). -/

namespace Sys2Proof.Machine

open Sys2Proof

/-! ### The words a fetch reads -/

/-- The decoder reads a run of PHYS bytes as the word at its start and the bytes after that. -/
theorem State.decodeBytes_physBytes (s : State) (a n : Nat) :
    decodeBytes (s.physBytes a (4 + n)) = decodeFrom (s.wordAt a) (s.physBytes (a + 4) n) := by
  rw [s.physBytes_add a 4 n]; rfl

/-- Eight bytes of PHYS are in the program region when both their words are. -/
theorem State.inProgram_eight (s : State) (a : Nat) :
    s.inProgram a 8 = (s.inProgram a 4 && s.inProgram (a + 4) 4) := by
  simp only [State.inProgram, ← Bool.decide_and]
  exact decide_eq_decide.mpr (by omega)

/-- A two-word instruction with its second word in PHYS (30_encoding.md R96). -/
theorem State.decodeTwoWord_physBytes (s : State) (op : BitVec 4) (w0 : Word) (a : Nat) :
    (decodeTwoWord op w0 (s.physBytes a 4)).map Prod.fst =
      if op = 0x1#4 then decodeWrite w0 (s.wordAt a) else decodeJump (s.wordAt a) :=
  except_map_fst_pair _ []

/-- A misaligned `RPC` finds no instruction (60_exceptions.md R243). -/
theorem State.fetch_misaligned {s : State} (hal : s.rpc.toNat % 4 ≠ 0) :
    s.fetch = .error .riscTruncated := by
  rw [State.fetch, State.fetchWindow, if_pos hal]; rfl

/-- An `RPC` outside the program region finds no instruction (60_exceptions.md R243). -/
theorem State.fetch_outside {s : State} (hal : s.rpc.toNat % 4 = 0)
    (h4 : s.inProgram s.rpc.toNat 4 = false) : s.fetch = .error .riscTruncated := by
  rw [State.fetch, State.fetchWindow, if_neg (not_not_intro hal), s.inProgram_eight, h4]; rfl

section

variable {s : State} (hal : s.rpc.toNat % 4 = 0) (h4 : s.inProgram s.rpc.toNat 4 = true)

include hal h4

/-- At an aligned `RPC` inside the region word 0 is decoded, with the bytes of word 1 where that too
lies inside (40_risc_program.md R121). -/
theorem State.fetch_decodeFrom :
    s.fetch = (decodeFrom (s.wordAt s.rpc.toNat)
      (if s.inProgram (s.rpc.toNat + 4) 4 then s.physBytes (s.rpc.toNat + 4) 4 else [])).map Prod.fst := by
  have h8 := s.inProgram_eight s.rpc.toNat
  rw [h4, Bool.true_and] at h8
  split
  next hin => rw [State.fetch_eight hal (h8.trans hin), s.decodeBytes_physBytes _ 4]
  next hout =>
    rw [State.fetch_four hal h4 (h8.trans (Bool.eq_false_iff.mpr hout)), s.decodeBytes_physBytes _ 0]
    rfl

theorem State.fetch_sync (hop : opcodeField (s.wordAt s.rpc.toNat) = 0x8#4) : s.fetch = .ok .sync := by
  rw [State.fetch_decodeFrom hal h4, decodeFrom, if_pos hop]; rfl

/-- An opcode outside `0x1`, `0x7`, `0x8` is no instruction (30_encoding.md R98). -/
theorem State.fetch_illegal (h8 : opcodeField (s.wordAt s.rpc.toNat) ≠ 0x8#4)
    (h17 : ¬(opcodeField (s.wordAt s.rpc.toNat) = 0x1#4 ∨ opcodeField (s.wordAt s.rpc.toNat) = 0x7#4)) :
    s.fetch = .error .riscOpcode := by
  rw [State.fetch_decodeFrom hal h4, decodeFrom, if_neg h8, if_neg h17]; rfl

/-- A two-word instruction needs its second word inside the region (40_risc_program.md R121). -/
theorem State.fetch_twoWord (h8 : opcodeField (s.wordAt s.rpc.toNat) ≠ 0x8#4)
    (h17 : opcodeField (s.wordAt s.rpc.toNat) = 0x1#4 ∨ opcodeField (s.wordAt s.rpc.toNat) = 0x7#4) :
    s.fetch =
      if s.inProgram (s.rpc.toNat + 4) 4 then
        if opcodeField (s.wordAt s.rpc.toNat) = 0x1#4 then
          decodeWrite (s.wordAt s.rpc.toNat) (s.wordAt (s.rpc.toNat + 4))
        else decodeJump (s.wordAt (s.rpc.toNat + 4))
      else .error .riscTruncated := by
  rw [State.fetch_decodeFrom hal h4, decodeFrom, if_neg h8, if_pos h17]
  split
  · exact s.decodeTwoWord_physBytes ..
  · rfl

end

/-! ### The causes of `RiscError` -/

theorem decodeWrite_error_iff (w0 w1 : Word) :
    (∃ r, decodeWrite w0 w1 = .error r) ↔ ccField w0 = 0b10#2 := by
  unfold decodeWrite
  split <;> simp [*]

theorem decodeJump_error_iff (w1 : Word) : (∃ r, decodeJump w1 = .error r) ↔ w1.toNat % 4 ≠ 0 := by
  unfold decodeJump
  split <;> simp [*]

/-- One of the six causes of 60_exceptions.md R243 holds, in its order. -/
def State.riscErrorCause (s : State) : Prop :=
  s.rpc.toNat % 4 ≠ 0 ∨ s.inProgram s.rpc.toNat 4 = false ∨
    (opcodeField (s.wordAt s.rpc.toNat) ≠ 0x1 ∧ opcodeField (s.wordAt s.rpc.toNat) ≠ 0x7 ∧
      opcodeField (s.wordAt s.rpc.toNat) ≠ 0x8) ∨
    (opcodeField (s.wordAt s.rpc.toNat) ≠ 0x8 ∧ s.inProgram (s.rpc.toNat + 4) 4 = false) ∨
    (opcodeField (s.wordAt s.rpc.toNat) = 0x1 ∧ ccField (s.wordAt s.rpc.toNat) = 0b10) ∨
    (opcodeField (s.wordAt s.rpc.toNat) = 0x7 ∧ (s.wordAt (s.rpc.toNat + 4)).toNat % 4 ≠ 0)

/-- The fetch finds no instruction exactly on those causes: the place first, then the opcode, then what
each two-word instruction asks of its words. -/
theorem State.fetch_error_iff (s : State) : (∃ r, s.fetch = .error r) ↔ s.riscErrorCause := by
  by_cases hal : s.rpc.toNat % 4 = 0
  case neg => exact iff_of_true ⟨_, State.fetch_misaligned hal⟩ (.inl hal)
  by_cases h4 : s.inProgram s.rpc.toNat 4 = true
  case neg =>
    have h4 := Bool.eq_false_iff.mpr h4
    exact iff_of_true ⟨_, State.fetch_outside hal h4⟩ (.inr (.inl h4))
  by_cases h8 : opcodeField (s.wordAt s.rpc.toNat) = 0x8#4
  · simp [State.fetch_sync hal h4 h8, State.riscErrorCause, hal, h4, h8]
  by_cases h1 : opcodeField (s.wordAt s.rpc.toNat) = 0x1#4
  · rw [State.fetch_twoWord hal h4 h8 (.inl h1), if_pos h1]
    split
    next hin => rw [decodeWrite_error_iff]; simp [State.riscErrorCause, hal, h4, h1, hin]
    next hout => simp [State.riscErrorCause, h1, hout]
  by_cases h7 : opcodeField (s.wordAt s.rpc.toNat) = 0x7#4
  · rw [State.fetch_twoWord hal h4 h8 (.inr h7), if_neg h1]
    split
    next hin => rw [decodeJump_error_iff]; simp [State.riscErrorCause, hal, h4, h7, hin]
    next hout => simp [State.riscErrorCause, h7, hout]
  · exact iff_of_true ⟨_, State.fetch_illegal hal h4 h8 (by simp [h1, h7])⟩
      (.inr (.inr (.inl ⟨h1, h7, h8⟩)))

/-- Settles O7, by what the fetch finds. -/
theorem riscErrorExactlyOnItsCauses : Obligations.RiscErrorExactlyOnItsCauses := by
  intro s hev he ha hr
  split
  next hcause =>
    obtain ⟨r, hf⟩ := s.fetch_error_iff.mpr hcause
    exact step_producer_error hev he ha hr hf
  next hnone =>
    cases hf : s.fetch with
    | ok i => exact ⟨i, rfl, step_producer_fetched hev he ha hr hf⟩
    | error r => exact absurd (s.fetch_error_iff.mp ⟨r, hf⟩) hnone

/-! ### A delivery the caller's buffer turns down -/

/-- A `CDELIVER` step outside `DstAdmit` takes `CallerBufferFault` (43_session_commands.md R195). -/
theorem engineStep_fault {s : State} {i : Nat} (hi : i < s.params.nsess)
    (hp : (s.engine i).phase = .cdeliver)
    (ha : s.admits (s.engine i).dptr.toNat (s.engine i).clen = false) :
    engineStep i s = .next (takeException (.callerBufferFault i) s) := by
  simp only [engineStep, if_neg (Nat.not_le.mpr hi), hp, cdeliverStep, ha, Bool.false_eq_true, if_false]

/-- The free bytes of a failed delivery stay inside the range of the chunk (20_memory.md R72). -/
theorem State.dstByte_fault (s : State) (i : Nat) {a : Nat}
    (ha : a < (s.engine i).dptr.toNat ∨ (s.engine i).dptr.toNat + (s.engine i).clen ≤ a) :
    (takeException (.callerBufferFault i) s).dstByte a = s.dstByte a := by
  rw [takeException_callerBufferFault]
  refine s.dst.read_writeBytes_out _ a _ ?_
  rw [State.freeBytes_length]
  omega

/-- The fault idles the engine of its slot, whose other fields stand (log 21). -/
theorem State.engine_fault_same {s : State} {i : Nat} (hi : i < s.rd.length) :
    (takeException (.callerBufferFault i) s).engine i = { s.engine i with phase := .idle } :=
  (s.dstScramble (s.engine i).dptr.toNat (s.engine i).clen).engine_setEngine_same _ hi

/-- The engines of the other slots stand. -/
theorem State.engine_fault_ne (s : State) {i j : Nat} (hj : j ≠ i) :
    (takeException (.callerBufferFault i) s).engine j = s.engine j :=
  (s.dstScramble (s.engine i).dptr.toNat (s.engine i).clen).engine_setEngine_ne _ hj

/-- The sessions stand: `POS` is not advanced by a failed chunk (60_exceptions.md R241). -/
theorem State.session_fault (s : State) (i j : Nat) :
    (takeException (.callerBufferFault i) s).session j = s.session j :=
  State.session_congr (by rw [takeException_callerBufferFault]) j

/-- PHYS stands: no ring byte is cleared (60_exceptions.md R241). -/
theorem State.physByte_fault (s : State) (i a : Nat) :
    (takeException (.callerBufferFault i) s).physByte a = s.physByte a :=
  State.physByte_congr (by rw [takeException_callerBufferFault]) a

/-- Settles O29. -/
theorem callerBufferFaultEndsTheRead : Obligations.CallerBufferFaultEndsTheRead := by
  intro s i hshape hev hi hp ha
  have hslot : i < s.consumed.rd.length := hi.trans_eq hshape.engines.symm
  have hstep : step s = .next (takeException (.callerBufferFault i) s.consumed) :=
    (step_engine hev).trans (engineStep_fault (s := s.consumed) hi hp ha)
  refine ⟨_, hstep, State.engine_fault_same hslot, fun j hj => s.consumed.engine_fault_ne hj,
    s.consumed.session_fault i, s.consumed.physByte_fault i, fun _ => s.consumed.dstByte_fault i, ?_⟩
  rw [takeException_callerBufferFault]
  rfl

end Sys2Proof.Machine
end

section
/-! SUPPORT. The reset input: the slots it leaves, and the agents it leaves without an enabled step
(70_reset_and_hazards.md R270). -/

namespace Sys2Proof.Machine

open Sys2Proof

/-- The step of a reset event. -/
theorem step_reset {s : State} (hev : s.nextEvent = .reset) :
    step s = .next (resetEvent s.consumed) := by
  simp only [step, hev, takeTurn]

/-- A slot the table does not hold reads as a closed one. -/
theorem State.session_of_length_le {s : State} {i : Nat} (h : s.sess.length ≤ i) :
    s.session i = Session.closed := List.getD_eq_default _ _ h

/-- An engine the table does not hold reads as an idle one. -/
theorem State.engine_of_length_le {s : State} {i : Nat} (h : s.rd.length ≤ i) :
    s.engine i = ReadEngine.idle s.params.pageSize := List.getD_eq_default _ _ h

/-- A reset event closes every slot (10_state.md R42). -/
theorem session_valid_resetEvent (s : State) (i : Nat) :
    ((resetEvent s).session i).valid = false := by
  by_cases hi : i < s.params.nsess
  · rw [session_resetEvent hi]; rfl
  · have hlen : (resetEvent s).sess.length ≤ i := by simpa [resetEvent] using hi
    rw [State.session_of_length_le hlen]; rfl

/-- A reset event idles every read engine (10_state.md R42). -/
theorem engine_phase_resetEvent (s : State) (i : Nat) :
    ((resetEvent s).engine i).phase = .idle := by
  by_cases hi : i < s.params.nsess
  · rw [engine_resetEvent hi]; rfl
  · have hlen : (resetEvent s).rd.length ≤ i := by simpa [resetEvent] using hi
    rw [State.engine_of_length_le hlen]; rfl

/-- A reset event stops the producer and drops the `WRITE` in flight. -/
theorem producerEnabled_resetEvent (s : State) : (resetEvent s).producerEnabled = false := rfl

/-- An idle engine has no step, whether or not its slot exists. -/
theorem engineStep_idle {s : State} {i : Nat} (hp : (s.engine i).phase = .idle) :
    engineStep i s = .next s := by
  unfold engineStep
  split
  · rfl
  · rw [hp]

/-- The turn of an idle engine passes (log 15). -/
theorem step_engine_idle {s : State} {i : Nat} (hev : s.nextEvent = .engine i)
    (hp : (s.engine i).phase = .idle) : step s = .next s.consumed :=
  (step_engine hev).trans (engineStep_idle (s := s.consumed) hp)

/-- Settles O43. The registers and memories are fields of `resetEvent`; the slots, and the turns that
pass, are the lemmas above. -/
theorem resetInputQuiescesTheBlock : Obligations.ResetInputQuiescesTheBlock := by
  intro s hev
  refine ⟨resetEvent s.consumed, step_reset hev, rfl, rfl, rfl, rfl, rfl, rfl, rfl, rfl,
    fun i => ⟨session_valid_resetEvent _ i, engine_phase_resetEvent _ i⟩, rfl, rfl, rfl, rfl, ?_, ?_⟩
  · exact fun hproducer => step_producer_disabled hproducer (producerEnabled_resetEvent _)
  · exact fun i hengine => step_engine_idle hengine (engine_phase_resetEvent _ i)

end Sys2Proof.Machine
end

section
/-! SUPPORT. Words of the spec, by the encoder that writes them (30_encoding.md R91 to R101). -/

namespace Sys2Proof

/-- What the encoder writes for a legal instruction decodes to it (30_encoding.md R98). -/
theorem decode_of_encode_eq {i : Instr} {c : Code} (hc : encode i = c) (hwf : i.wf = true) :
    decode c = .ok i := hc ▸ decodeOfEncodeIsIdentity i hwf

/-- A `GENERATE` decodes whatever stands in `NB`, `LEN` and `DST`, which it ignores
(30_encoding.md R101). -/
theorem decode_generateWord (nb : Bool) (sid : Slot) (len : Word) (dst : Long) :
    decode (.command (commandWord 0x04 nb sid len dst)) = .ok (.generate sid) :=
  decodeCommand_commandWord (by simp [commandOf])

/-- Settles O2. The first seven words are what the encoder writes for their instructions; the eighth
has its ignored fields set. -/
theorem specWordsDecode : Obligations.SpecWordsDecode := by
  have hgenerate : commandWord 0x04 true 0xFFFF 0x12345678 0xBEEF =
      0x0480FFFF12345678000000000000BEEF#128 := by decide
  refine ⟨?sync, ?writeIrq, ?writeNoIrq, ?jump, ?openSession, ?read, ?closeSession, ?generate⟩
  case generate => exact hgenerate ▸ decode_generateWord true 0xFFFF 0x12345678 0xBEEF
  all_goals exact decode_of_encode_eq (by decide) (by decide)

end Sys2Proof
end

section
/-! SUPPORT. The state after reset meets the invariant, for all legal sizes (10_state.md R42). -/

namespace Sys2Proof.Machine

open Sys2Proof

/-- Nothing is written yet in the memories after reset. -/
theorem resetWith_memoryInv (p : Params) : MemoryInv (State.resetWith p) :=
  ⟨List.Pairwise.nil, nofun, List.Pairwise.nil, nofun⟩

/-- Reset makes as many registers as the sizes ask for. -/
theorem resetWith_shapeInv {p : Params} (hp : p.valid) : ShapeInv (State.resetWith p) :=
  ⟨hp, List.length_replicate, List.length_replicate, List.length_replicate⟩

/-- The producer is stopped after reset, with no `WRITE` in flight. -/
theorem resetWith_producerInv (p : Params) : ProducerInv (State.resetWith p) :=
  ⟨nofun, Nat.zero_le _, Nat.zero_le _, nofun, nofun⟩

/-- Every engine after reset is the idle one, whatever its index. -/
theorem resetWith_engine (p : Params) (i : Nat) :
    (State.resetWith p).engine i = ReadEngine.idle p.pageSize :=
  List.getElem?_getD_replicate_default_eq ..

/-- A slot after reset is closed and idle, and its staging buffer holds a page. -/
theorem resetWith_slotInv (p : Params) (i : Nat) : SlotInv (State.resetWith p) i := by
  obtain ⟨hclosed, hidle⟩ := resetWith_slots p i
  have hstaging : ((State.resetWith p).engine i).cb.length = p.pageSize := by
    rw [resetWith_engine]
    exact List.length_replicate
  exact slotInv_iff.mpr (.idle hstaging (fun hopen => by simp [hclosed] at hopen) hidle)

theorem resetWith_inv {p : Params} (hp : p.valid) : (State.resetWith p).Inv where
  memory := resetWith_memoryInv p
  shape := resetWith_shapeInv hp
  producer := resetWith_producerInv p
  slots i _ := resetWith_slotInv p i

/-- Settles O49: parameter set T is legal (00_scope.md R18). -/
theorem resetMeetsTheInvariant : Obligations.ResetMeetsTheInvariant :=
  resetWith_inv (by decide)

end Sys2Proof.Machine
end
